-- ==== Sys2Proof/Word.lean ====
section
/-! DEFINITION. The word types of the machine (spec/00_scope.md R8 to R11, Table R6). Every value is an unsigned
bit vector; the machine has no signed quantity (R9). -/

namespace Sys2Proof

/-- A byte: a general register, a timer, `sp`, a memory cell (Table R6). -/
abbrev Byte := BitVec 8

/-- A 16-bit word: `pc`, `i`, a stack slot, an opcode (Table R6). -/
abbrev Word := BitVec 16

/-- A register number 0 to 15, the operand fields `x` and `y` (R10, R93). -/
abbrev Reg := BitVec 4

/-- A 4-bit immediate, the operand field `n` (R10). -/
abbrev Nibble := BitVec 4

/-- A 12-bit address, the operand field `nnn` (R10). -/
abbrev Addr := BitVec 12

end Sys2Proof
end

