-- ==== Sys2Proof/Machine/Flags.lean ====
section
/-! DEFINITION. The flag computations (spec/44_alu.md R170 to R181): each is a function of the operands as they are
before the instruction writes anything. -/

namespace Sys2Proof.Machine

/-- A flag is the byte 0 or 1 (R22). -/
def flagByte (c : Bool) : Byte := if c then 1 else 0

/-- Carry of `a + b`: 1 iff the exact sum is above 255 (R175). -/
def carryFlag (a b : Byte) : Byte := flagByte (decide (255 < a.toNat + b.toNat))

/-- Not-borrow of `m - s`: 1 iff `m ≥ s` (R176, R178). -/
def notBorrowFlag (m s : Byte) : Byte := flagByte (decide (s.toNat ≤ m.toNat))

/-- The bit `SHR` shifts out: bit 0 (R177). -/
def lowBitFlag (a : Byte) : Byte := flagByte (a.getLsbD 0)

/-- The bit `SHL` shifts out: bit 7 (R179). -/
def highBitFlag (a : Byte) : Byte := flagByte (a.getLsbD 7)

end Sys2Proof.Machine
end

