-- ==== Sys2Proof/Syntax.lean ====
section
/-! DEFINITION. The instruction set as syntax: one constructor per row of Table R100 (spec/30_encoding.md), in the
order of the table. Operands are the fields of the word at their own widths (R10, R92, R93). -/

namespace Sys2Proof

/-- The 34 instructions of Table R100. `shr` and `shl` keep the `y` field that the operation ignores (R104), so
that an instruction determines its word. -/
inductive Instr where
  | cls                            -- 00E0  CLS
  | ret                            -- 00EE  RET
  | jp (nnn : Addr)                -- 1nnn  JP nnn
  | call (nnn : Addr)              -- 2nnn  CALL nnn
  | seByte (x : Reg) (kk : Byte)   -- 3xkk  SE Vx,kk
  | sneByte (x : Reg) (kk : Byte)  -- 4xkk  SNE Vx,kk
  | seReg (x y : Reg)              -- 5xy0  SE Vx,Vy
  | sneReg (x y : Reg)             -- 9xy0  SNE Vx,Vy
  | ldByte (x : Reg) (kk : Byte)   -- 6xkk  LD Vx,kk
  | addByte (x : Reg) (kk : Byte)  -- 7xkk  ADD Vx,kk
  | mov (x y : Reg)                -- 8xy0  MOV Vx,Vy
  | or (x y : Reg)                 -- 8xy1  OR Vx,Vy
  | and (x y : Reg)                -- 8xy2  AND Vx,Vy
  | xor (x y : Reg)                -- 8xy3  XOR Vx,Vy
  | add (x y : Reg)                -- 8xy4  ADD Vx,Vy
  | sub (x y : Reg)                -- 8xy5  SUB Vx,Vy
  | shr (x y : Reg)                -- 8xy6  SHR Vx
  | subn (x y : Reg)               -- 8xy7  SUBN Vx,Vy
  | shl (x y : Reg)                -- 8xyE  SHL Vx
  | ldI (nnn : Addr)               -- Annn  LD I,nnn
  | jpV0 (nnn : Addr)              -- Bnnn  JP V0,nnn
  | rnd (x : Reg) (kk : Byte)      -- Cxkk  RND Vx,kk
  | drw (x y : Reg) (n : Nibble)   -- Dxyn  DRW Vx,Vy,n
  | skp (x : Reg)                  -- Ex9E  SKP Vx
  | sknp (x : Reg)                 -- ExA1  SKNP Vx
  | ldVxDt (x : Reg)               -- Fx07  LD Vx,DT
  | ldDtVx (x : Reg)               -- Fx15  LD DT,Vx
  | ldStVx (x : Reg)               -- Fx18  LD ST,Vx
  | ldVxK (x : Reg)                -- Fx0A  LD Vx,K
  | addI (x : Reg)                 -- Fx1E  ADD I,Vx
  | ldF (x : Reg)                  -- Fx29  LD F,Vx
  | ldB (x : Reg)                  -- Fx33  LD B,Vx
  | storeRegs (x : Reg)            -- Fx55  LD [I],Vx
  | loadRegs (x : Reg)             -- Fx65  LD Vx,[I]
deriving DecidableEq, Repr

end Sys2Proof
end

