-- ==== Sys2Proof/WellFormed.lean ====
section
/-! DEFINITION. Well-formedness. An instruction's operands have exactly the widths of their fields, and every value
of every field is legal (spec/30_encoding.md R93, R104), so the types leave nothing ill-formed and the check on an
instruction accepts every term. The one thing the core is given that can be ill-formed is the ROM (R292, R293). -/

namespace Sys2Proof

/-- R93: all 16 register numbers, all bytes, all addresses and all row counts are legal in every instruction. -/
def Instr.wellFormed : Instr → Bool
  | .cls | .ret => true
  | .jp _ | .call _ | .ldI _ | .jpV0 _ => true
  | .seByte _ _ | .sneByte _ _ | .ldByte _ _ | .addByte _ _ | .rnd _ _ => true
  | .seReg _ _ | .sneReg _ _ => true
  | .mov _ _ | .or _ _ | .and _ _ | .xor _ _ | .add _ _ | .sub _ _ | .shr _ _ | .subn _ _ | .shl _ _ => true
  | .drw _ _ _ => true
  | .skp _ | .sknp _ | .ldVxDt _ | .ldDtVx _ | .ldStVx _ | .ldVxK _ => true
  | .addI _ | .ldF _ | .ldB _ | .storeRegs _ | .loadRegs _ => true

/-- `ROM_MAX` of Table R6: 4096 - 512 bytes. -/
def romMax : Nat := 3584

/-- The load contract of R292: a ROM is at most 3584 bytes; 0 and odd lengths are legal. -/
def romWellFormed (rom : List Byte) : Bool := decide (rom.length ≤ romMax)

end Sys2Proof
end

