-- ==== Sys2Proof/Decode.lean ====
section
/-! DEFINITION. The decoder and the encoder (spec/30_encoding.md R90 to R105, R108). Decode is total on 16-bit words
and on byte lists; what it does not accept it rejects by name. -/

namespace Sys2Proof

/-! Field extraction, R92. -/

/-- `group = opcode[15:12]`. -/
def groupOf (w : Word) : Nibble := w.extractLsb' 12 4

/-- `x = opcode[11:8]`. -/
def xOf (w : Word) : Reg := w.extractLsb' 8 4

/-- `y = opcode[7:4]`. -/
def yOf (w : Word) : Reg := w.extractLsb' 4 4

/-- `n = opcode[3:0]`. -/
def nOf (w : Word) : Nibble := w.extractLsb' 0 4

/-- `kk = opcode[7:0]`. -/
def kkOf (w : Word) : Byte := w.extractLsb' 0 8

/-- `nnn = opcode[11:0]`. -/
def nnnOf (w : Word) : Addr := w.extractLsb' 0 12

/-- Why the decoder gives no instruction. -/
inductive DecodeReject where
  /-- The word matches no row of Table R100: the `DecodeError` of R101. -/
  | unrecognizedOpcode (opcode : Word)
  /-- Fewer than the two bytes of an instruction (R90). -/
  | truncated
deriving DecidableEq, Repr

/-- What decoding a word gives. -/
abbrev Decoded := Except DecodeReject Instr

/-- Group 0x0 (R95): the low byte selects; under `DECODE_STRICT` the second nibble must be 0 (R108 drops that). -/
def decodeGroup0 (strict : Bool) (w : Word) : Decoded :=
  if strict && xOf w != 0 then .error (.unrecognizedOpcode w)
  else match (kkOf w).toNat with
    | 0xE0 => .ok .cls
    | 0xEE => .ok .ret
    | _ => .error (.unrecognizedOpcode w)

/-- Groups 0x5 and 0x9 (R99): under `DECODE_STRICT` the low nibble must be 0 (R108 drops that). -/
def decodeLowZero (strict : Bool) (w : Word) (i : Instr) : Decoded :=
  if strict && nOf w != 0 then .error (.unrecognizedOpcode w) else .ok i

/-- Group 0x8 (R96): the low nibble selects. -/
def decodeGroup8 (w : Word) : Decoded :=
  match (nOf w).toNat with
  | 0x0 => .ok (.mov (xOf w) (yOf w))
  | 0x1 => .ok (.or (xOf w) (yOf w))
  | 0x2 => .ok (.and (xOf w) (yOf w))
  | 0x3 => .ok (.xor (xOf w) (yOf w))
  | 0x4 => .ok (.add (xOf w) (yOf w))
  | 0x5 => .ok (.sub (xOf w) (yOf w))
  | 0x6 => .ok (.shr (xOf w) (yOf w))
  | 0x7 => .ok (.subn (xOf w) (yOf w))
  | 0xE => .ok (.shl (xOf w) (yOf w))
  | _ => .error (.unrecognizedOpcode w)

/-- Group 0xE (R97): the low byte selects. -/
def decodeGroupE (w : Word) : Decoded :=
  match (kkOf w).toNat with
  | 0x9E => .ok (.skp (xOf w))
  | 0xA1 => .ok (.sknp (xOf w))
  | _ => .error (.unrecognizedOpcode w)

/-- Group 0xF (R98): the low byte selects. -/
def decodeGroupF (w : Word) : Decoded :=
  match (kkOf w).toNat with
  | 0x07 => .ok (.ldVxDt (xOf w))
  | 0x0A => .ok (.ldVxK (xOf w))
  | 0x15 => .ok (.ldDtVx (xOf w))
  | 0x18 => .ok (.ldStVx (xOf w))
  | 0x1E => .ok (.addI (xOf w))
  | 0x29 => .ok (.ldF (xOf w))
  | 0x33 => .ok (.ldB (xOf w))
  | 0x55 => .ok (.storeRegs (xOf w))
  | 0x65 => .ok (.loadRegs (xOf w))
  | _ => .error (.unrecognizedOpcode w)

/-- The dispatch of R94 on the top nibble. The last arm is group 0xF. `strict` is `DECODE_STRICT`. -/
def decodeWord (strict : Bool) (w : Word) : Decoded :=
  match (groupOf w).toNat with
  | 0x0 => decodeGroup0 strict w
  | 0x1 => .ok (.jp (nnnOf w))
  | 0x2 => .ok (.call (nnnOf w))
  | 0x3 => .ok (.seByte (xOf w) (kkOf w))
  | 0x4 => .ok (.sneByte (xOf w) (kkOf w))
  | 0x5 => decodeLowZero strict w (.seReg (xOf w) (yOf w))
  | 0x6 => .ok (.ldByte (xOf w) (kkOf w))
  | 0x7 => .ok (.addByte (xOf w) (kkOf w))
  | 0x8 => decodeGroup8 w
  | 0x9 => decodeLowZero strict w (.sneReg (xOf w) (yOf w))
  | 0xA => .ok (.ldI (nnnOf w))
  | 0xB => .ok (.jpV0 (nnnOf w))
  | 0xC => .ok (.rnd (xOf w) (kkOf w))
  | 0xD => .ok (.drw (xOf w) (yOf w) (nOf w))
  | 0xE => decodeGroupE w
  | _ => decodeGroupF w

/-- The opcode of two bytes in memory order: big-endian, the first byte is `opcode[15:8]` (spec/20_memory.md R67). -/
def opcodeOfBytes (hi lo : Byte) : Word := hi ++ lo

/-- Decoding the head of a byte list: the instruction and the bytes after it. -/
def decodeBytes (strict : Bool) : List Byte → Except DecodeReject (Instr × List Byte)
  | hi :: lo :: rest =>
    match decodeWord strict (opcodeOfBytes hi lo) with
    | .ok i => .ok (i, rest)
    | .error r => .error r
  | _ => .error .truncated

/-- The encoder: the word of an instruction, nibble by nibble as the patterns of Table R100 write it. -/
def encode : Instr → Word
  | .cls => 0x00E0
  | .ret => 0x00EE
  | .jp nnn => 0x1#4 ++ nnn
  | .call nnn => 0x2#4 ++ nnn
  | .seByte x kk => 0x3#4 ++ x ++ kk
  | .sneByte x kk => 0x4#4 ++ x ++ kk
  | .seReg x y => 0x5#4 ++ x ++ y ++ 0x0#4
  | .sneReg x y => 0x9#4 ++ x ++ y ++ 0x0#4
  | .ldByte x kk => 0x6#4 ++ x ++ kk
  | .addByte x kk => 0x7#4 ++ x ++ kk
  | .mov x y => 0x8#4 ++ x ++ y ++ 0x0#4
  | .or x y => 0x8#4 ++ x ++ y ++ 0x1#4
  | .and x y => 0x8#4 ++ x ++ y ++ 0x2#4
  | .xor x y => 0x8#4 ++ x ++ y ++ 0x3#4
  | .add x y => 0x8#4 ++ x ++ y ++ 0x4#4
  | .sub x y => 0x8#4 ++ x ++ y ++ 0x5#4
  | .shr x y => 0x8#4 ++ x ++ y ++ 0x6#4
  | .subn x y => 0x8#4 ++ x ++ y ++ 0x7#4
  | .shl x y => 0x8#4 ++ x ++ y ++ 0xE#4
  | .ldI nnn => 0xA#4 ++ nnn
  | .jpV0 nnn => 0xB#4 ++ nnn
  | .rnd x kk => 0xC#4 ++ x ++ kk
  | .drw x y n => 0xD#4 ++ x ++ y ++ n
  | .skp x => 0xE#4 ++ x ++ 0x9E#8
  | .sknp x => 0xE#4 ++ x ++ 0xA1#8
  | .ldVxDt x => 0xF#4 ++ x ++ 0x07#8
  | .ldDtVx x => 0xF#4 ++ x ++ 0x15#8
  | .ldStVx x => 0xF#4 ++ x ++ 0x18#8
  | .ldVxK x => 0xF#4 ++ x ++ 0x0A#8
  | .addI x => 0xF#4 ++ x ++ 0x1E#8
  | .ldF x => 0xF#4 ++ x ++ 0x29#8
  | .ldB x => 0xF#4 ++ x ++ 0x33#8
  | .storeRegs x => 0xF#4 ++ x ++ 0x55#8
  | .loadRegs x => 0xF#4 ++ x ++ 0x65#8

/-- The two bytes of a word in memory order (R67). -/
def wordBytes (w : Word) : List Byte := [w.extractLsb' 8 8, w.extractLsb' 0 8]

/-- The bytes of an instruction in memory order. -/
def encodeBytes (i : Instr) : List Byte := wordBytes (encode i)

/-- One row of Table R100: the words it covers and the instruction such a word is. -/
structure OpRow where
  mat : Word
  mask : Word
  instr : Word → Instr

/-- The word belongs to the row: `(opcode & mask) = match` (R100). -/
def OpRow.covers (r : OpRow) (w : Word) : Bool := w &&& r.mask == r.mat

/-- Rows 1 to 19 of Table R100, transcribed from its `match` and `mask` columns; R108 gives the masks of rows 1, 2,
7 and 8 under the loose decoder. -/
def opcodeRowsLow (strict : Bool) : List OpRow :=
  [ ⟨0x00E0, if strict then 0xFFFF else 0xF0FF, fun _ => .cls⟩,
    ⟨0x00EE, if strict then 0xFFFF else 0xF0FF, fun _ => .ret⟩,
    ⟨0x1000, 0xF000, fun w => .jp (nnnOf w)⟩,
    ⟨0x2000, 0xF000, fun w => .call (nnnOf w)⟩,
    ⟨0x3000, 0xF000, fun w => .seByte (xOf w) (kkOf w)⟩,
    ⟨0x4000, 0xF000, fun w => .sneByte (xOf w) (kkOf w)⟩,
    ⟨0x5000, if strict then 0xF00F else 0xF000, fun w => .seReg (xOf w) (yOf w)⟩,
    ⟨0x9000, if strict then 0xF00F else 0xF000, fun w => .sneReg (xOf w) (yOf w)⟩,
    ⟨0x6000, 0xF000, fun w => .ldByte (xOf w) (kkOf w)⟩,
    ⟨0x7000, 0xF000, fun w => .addByte (xOf w) (kkOf w)⟩,
    ⟨0x8000, 0xF00F, fun w => .mov (xOf w) (yOf w)⟩,
    ⟨0x8001, 0xF00F, fun w => .or (xOf w) (yOf w)⟩,
    ⟨0x8002, 0xF00F, fun w => .and (xOf w) (yOf w)⟩,
    ⟨0x8003, 0xF00F, fun w => .xor (xOf w) (yOf w)⟩,
    ⟨0x8004, 0xF00F, fun w => .add (xOf w) (yOf w)⟩,
    ⟨0x8005, 0xF00F, fun w => .sub (xOf w) (yOf w)⟩,
    ⟨0x8006, 0xF00F, fun w => .shr (xOf w) (yOf w)⟩,
    ⟨0x8007, 0xF00F, fun w => .subn (xOf w) (yOf w)⟩,
    ⟨0x800E, 0xF00F, fun w => .shl (xOf w) (yOf w)⟩ ]

/-- Rows 20 to 34 of Table R100. -/
def opcodeRowsHigh : List OpRow :=
  [ ⟨0xA000, 0xF000, fun w => .ldI (nnnOf w)⟩,
    ⟨0xB000, 0xF000, fun w => .jpV0 (nnnOf w)⟩,
    ⟨0xC000, 0xF000, fun w => .rnd (xOf w) (kkOf w)⟩,
    ⟨0xD000, 0xF000, fun w => .drw (xOf w) (yOf w) (nOf w)⟩,
    ⟨0xE09E, 0xF0FF, fun w => .skp (xOf w)⟩,
    ⟨0xE0A1, 0xF0FF, fun w => .sknp (xOf w)⟩,
    ⟨0xF007, 0xF0FF, fun w => .ldVxDt (xOf w)⟩,
    ⟨0xF015, 0xF0FF, fun w => .ldDtVx (xOf w)⟩,
    ⟨0xF018, 0xF0FF, fun w => .ldStVx (xOf w)⟩,
    ⟨0xF00A, 0xF0FF, fun w => .ldVxK (xOf w)⟩,
    ⟨0xF01E, 0xF0FF, fun w => .addI (xOf w)⟩,
    ⟨0xF029, 0xF0FF, fun w => .ldF (xOf w)⟩,
    ⟨0xF033, 0xF0FF, fun w => .ldB (xOf w)⟩,
    ⟨0xF055, 0xF0FF, fun w => .storeRegs (xOf w)⟩,
    ⟨0xF065, 0xF0FF, fun w => .loadRegs (xOf w)⟩ ]

/-- Table R100, in its order. The decoder does not read it: it is the spec's second account of the same set. -/
def opcodeTable (strict : Bool) : List OpRow := opcodeRowsLow strict ++ opcodeRowsHigh

/-- The word as the opcode table numbers its bits: bit 0 is the least significant bit of the one 16-bit word. -/
def tableWord (nbits w : Nat) : Word := BitVec.ofNat 16 (w % 2 ^ nbits)

/-- What the decoder (strict, the default) reads from the word laid out in memory. -/
def decodeTableWord (nbits w : Nat) : Option Instr :=
  match decodeBytes true (wordBytes (tableWord nbits w)) with
  | .ok (i, _) => some i
  | .error _ => none

end Sys2Proof
end

