-- ==== Sys2Proof/Config.lean ====
section
/-! DEFINITION. What the spec leaves to the implementation or to the environment (spec/00_scope.md R7): the open
parameters that the step relation and the reset sequence depend on, and the two free values. -/

namespace Sys2Proof

/-- `PRESENT_POLICY` (spec/46_display.md R199, conflict C8): when the `Present` event is emitted. -/
inductive PresentPolicy where
  | onCollision
  | everyTick
deriving DecidableEq, Repr

/-- The parameters of Table R7 that the step relation depends on. They stand in State, unchanged by every step, so
that a statement about every state is a statement about every choice of them (log entry 5). -/
structure Params where
  /-- `DECODE_STRICT`: false selects the loose decoder of R108. -/
  decodeStrict : Bool
  presentPolicy : PresentPolicy
deriving DecidableEq, Repr

/-- The defaults of Table R7: `DECODE_STRICT = true`, `PRESENT_POLICY = on_collision`. -/
def Params.default : Params := { decodeStrict := true, presentPolicy := .onCollision }

/-- The parameters of Table R7 that the reset sequence of spec/70_reset_and_hazards.md R290 depends on. -/
structure BootParams where
  /-- `RESET_PC`. -/
  resetPc : Word
  /-- `RESET_SP`. -/
  resetSp : Byte
  /-- `FONT[0..79]`. -/
  font : Vector Byte 80
  params : Params
deriving DecidableEq, Repr

/-- FREE VALUE (log entry 8): the byte that draw number `k` of `RND` takes once the supplied bytes are used up.
No body: no proof can see it (spec/45_random.md R190, a free draw under no law). -/
opaque Config.randByte : Nat → Byte

/-- FREE VALUE (log entry 7): the levels of `keys[0..15]` at sample number `k`, bit `j` being key `j`, once the
supplied samples are used up (spec/60_exceptions.md R267, a free input at each sample). -/
opaque Config.keyLevels : Nat → BitVec 16

end Sys2Proof
end

