-- ==== Sys2Proof/Machine/State.lean ====
section
/-! DEFINITION. The state of the core (spec/10_state.md Table R20), plain data, with the outputs, parameters and
inputs a step needs, and the state after reset (Table R40). -/

namespace Sys2Proof.Machine

/-- The run state (R32). -/
inductive Status where
  | running
  | waitKey
  | closing
  | faulted
deriving DecidableEq, Repr

/-- The five faults with the datum each records beside the pc (spec/60_exceptions.md Table R255). -/
inductive FaultCause where
  /-- R250: the raw opcode. -/
  | decodeError (opcode : Word)
  /-- R251: the lowest offending address. -/
  | memoryBounds (addr : Nat)
  /-- R252. -/
  | stackOverflow
  /-- R253. -/
  | stackUnderflow
  /-- R254: the value of `v[x]`. -/
  | keyIndex (k : Byte)
deriving DecidableEq, Repr

/-- The fault record (R33): the cause and the `pc` of the faulting instruction. -/
structure FaultRecord where
  cause : FaultCause
  pc : Word
deriving DecidableEq, Repr

/-- The output events (spec/60_exceptions.md R269, R270). Neither carries data. -/
inductive OutEvent where
  | clear
  | present
deriving DecidableEq, Repr

/-- What the environment does at one transition boundary (the model's own, log entry 6): nothing, a key event
(R213, R268), or the close request being acted on (R128 in `Running`, the abort of R214 in `WaitKey`). -/
inductive EnvEvent where
  | idle
  | key (k : BitVec 4)
  | close
deriving DecidableEq, Repr

/-- The environment's inputs as plain data (the model's own, log entries 6, 7 and 8). -/
structure Env where
  /-- What happens at the coming boundaries, one entry a step; past its end nothing happens. -/
  events : List EnvEvent
  /-- The levels of `keys[0..15]` at the coming executions of `SKP` and `SKNP` (R267), bit `j` being key `j`. -/
  keysIn : List (BitVec 16)
  /-- How many key samples were taken. -/
  keySamples : Nat
  /-- The bytes that the coming executions of `RND` draw (R190). -/
  randIn : List Byte
  /-- How many bytes were drawn. -/
  randDraws : Nat
deriving DecidableEq, Repr

/-- Memory (spec/20_memory.md R60): the cells that differ from the reset content, addresses strictly rising. -/
abbrev Memory := List Host.Cell

/-- The framebuffer (R31): 32 lines of 64 pixels; `fb[col][row]` is bit `col` of line `row`. -/
abbrev Framebuffer := Vector (BitVec 64) 32

/-- The state: Table R20 in its order, then the event trace, the parameters and the environment. -/
structure State where
  /-- `v[0..15]` (R21); `v[15]` is the flag register (R22). -/
  v : Vector Byte 16
  /-- `pc` (R23). -/
  pc : Word
  /-- `i` (R25). -/
  i : Word
  /-- `sp` (R26). -/
  sp : Byte
  /-- `stack[0..15]` (R27). -/
  stack : Vector Word 16
  /-- `dt` (R29). -/
  dt : Byte
  /-- `st` (R30). -/
  st : Byte
  /-- `mem` (R60). -/
  mem : Memory
  /-- `fb` (R31). -/
  fb : Framebuffer
  /-- `status` (R32). -/
  status : Status
  /-- `fault` (R33). -/
  fault : Option FaultRecord
  /-- `wait_x` (R34), meaningful in `WaitKey` only. -/
  waitX : Reg
  /-- The event trace (spec/00_scope.md R15), oldest event first. -/
  trace : List OutEvent
  /-- The parameters of Table R7 that the step depends on; no step changes them. -/
  params : Params
  /-- The environment's inputs (the model's own). -/
  env : Env
deriving DecidableEq, Repr

/-- Why a step has no next state. -/
inductive Fault where
  /-- Raised by `step` in `Faulted`: nothing is enabled until reset (R126). The fault itself was taken as a next
  state (R258). Safe. -/
  | machineFaulted
  /-- Raised by `step` in `Closing`: nothing is enabled until reset (R126). Safe. -/
  | machineClosed
  /-- Raised by `RET` and `CALL` when `sp` is above 15, where no slot exists. R26 says such values are never held,
  and no run from reset reaches one. Safe. -/
  | noStackSlot
deriving DecidableEq, Repr

/-- Why an instruction has no meaning. -/
inductive Refusal where
  /-- Raised by an arm of `exec` whose instruction is not modelled. No arm raises it. Safe. -/
  | notModelled (mnemonic : String)
deriving DecidableEq, Repr

/-- The environment at reset: nothing supplied (DESIGN CHOICE, log entries 6, 7 and 8; unsafe to rest a claim on). -/
def Env.reset : Env := { events := [], keysIn := [], keySamples := 0, randIn := [], randDraws := 0 }

/-- The state right after reset (Table R40, R290) with no ROM placed. `waitX` is a DESIGN CHOICE (log entry 4),
unsafe; the zeros are the spec's own decisions (log entry 1). -/
def State.reset : State where
  v := Vector.replicate 16 0
  pc := 0x0200
  i := 0
  sp := 0
  stack := Vector.replicate 16 0
  dt := 0
  st := 0
  mem := []
  fb := Vector.replicate 32 0
  status := .running
  fault := none
  waitX := 0
  trace := []
  params := Params.default
  env := Env.reset

end Sys2Proof.Machine
end

