-- ==== Sys2Proof/Machine/Ops.lean ====
section
/-! DEFINITION. The named operations over memory, registers, framebuffer, fault entry and inputs
(spec/00_scope.md R11 to R16, spec/20_memory.md R64 to R79, spec/60_exceptions.md R258). -/

namespace Sys2Proof.Machine

/-! ## Memory -/

/-- Table R63, glyphs 0 to 7: the default of `FONT`, which the spec takes from general knowledge (log entry 2). -/
def fontLow : List Byte :=
  [0xF0, 0x90, 0x90, 0x90, 0xF0,  0x20, 0x60, 0x20, 0x20, 0x70,
   0xF0, 0x10, 0xF0, 0x80, 0xF0,  0xF0, 0x10, 0xF0, 0x10, 0xF0,
   0x90, 0x90, 0xF0, 0x10, 0x10,  0xF0, 0x80, 0xF0, 0x10, 0xF0,
   0xF0, 0x80, 0xF0, 0x90, 0xF0,  0xF0, 0x10, 0x20, 0x40, 0x40]

/-- Table R63, glyphs 8 to F. -/
def fontHigh : List Byte :=
  [0xF0, 0x90, 0xF0, 0x90, 0xF0,  0xF0, 0x90, 0xF0, 0x10, 0xF0,
   0xF0, 0x90, 0xF0, 0x90, 0x90,  0xE0, 0x90, 0xE0, 0x90, 0xE0,
   0xF0, 0x80, 0x80, 0x80, 0xF0,  0xE0, 0x90, 0x90, 0x90, 0xE0,
   0xF0, 0x80, 0xF0, 0x80, 0xF0,  0xF0, 0x80, 0xF0, 0x80, 0x80]

/-- `FONT[0..79]` (R63). -/
def fontTable : List Byte := fontLow ++ fontHigh

/-- What an address that no entry lists reads as: the reset content of Table R40, the font at 0x000 to 0x04F and
0x00 above it (log entries 1 and 2). -/
def resetByte (a : Nat) : Byte := fontTable.getD a 0

/-- `MEM_SIZE` of Table R6: addresses are 0x000 to 0xFFF. -/
def memSize : Nat := 0x1000

/-- `mem[a]`. -/
def Memory.read : Memory → Nat → Byte
  | [], a => resetByte a
  | (k, c) :: m, a => if a = k then c else Memory.read m a

/-- List the byte at its place in the rising order, replacing an entry of the same address. -/
def Memory.put : Memory → Nat → Byte → Memory
  | [], a, b => [(a, b)]
  | (k, c) :: m, a, b =>
    if a < k then (a, b) :: (k, c) :: m
    else if a = k then (a, b) :: m
    else (k, c) :: Memory.put m a b

/-- Unlist an address, so that it reads as at reset. -/
def Memory.drop (m : Memory) (a : Nat) : Memory := m.filter (fun c => c.1 != a)

/-- `mem[a] <- b`, keeping the canonical form: a byte equal to the reset content is not listed. -/
def Memory.write (m : Memory) (a : Nat) (b : Byte) : Memory :=
  if b = resetByte a then Memory.drop m a else Memory.put m a b

/-- The canonical form: addresses strictly rising and inside memory, no entry equal to the reset content. -/
abbrev Memory.wf (m : Memory) : Prop :=
  m.Pairwise (fun c d => c.1 < d.1) ∧ ∀ c ∈ m, c.1 < memSize ∧ c.2 ≠ resetByte c.1

/-- The bytes at `a`, `a + 1`, ..., `n` of them, ascending (R68). -/
def Memory.readBytes (m : Memory) (a : Nat) : Nat → List Byte
  | 0 => []
  | n + 1 => Memory.read m a :: Memory.readBytes m (a + 1) n

/-- Store bytes at `a`, `a + 1`, ..., ascending (R68). -/
def Memory.writeBytes : Memory → Nat → List Byte → Memory
  | m, _, [] => m
  | m, a, b :: bs => Memory.writeBytes (Memory.write m a b) (a + 1) bs

/-- The bound of R64 and R65 for the `len` bytes at `base`, checked before any of them is accessed (R79): the
lowest address above 0xFFF, if there is one. An access of no bytes has none (R197, n = 0). -/
def firstOutside (base len : Nat) : Option Nat :=
  if len ≠ 0 ∧ memSize < base + len then some (max base memSize) else none

/-! ## Fault entry -/

/-- `raise F(info)` (R14, R258): the status and the fault record, nothing else; `pc` still addresses the
instruction. There is no return from a fault (R260). -/
def State.raise (s : State) (c : FaultCause) : State :=
  { s with status := .faulted, fault := some { cause := c, pc := s.pc } }

/-- The code of a fault in Table R255. -/
def FaultCause.code : FaultCause → Nat
  | .decodeError _ => 1
  | .memoryBounds _ => 2
  | .stackOverflow => 3
  | .stackUnderflow => 4
  | .keyIndex _ => 5

/-- An access to the `len` bytes at `base`: `done` when all are inside memory, else the `MemoryBoundsFault` with the
lowest offending address and no other effect (R79, R251). -/
def State.bounded (s : State) (base len : Nat) (done : State) : State :=
  match firstOutside base len with
  | some a => s.raise (.memoryBounds a)
  | none => done

/-! ## Registers -/

/-- `v[k]` (R11). -/
def State.getV (s : State) (k : Reg) : Byte := s.v[k.toNat]'k.isLt

/-- `v[k] <- b` (R11). No register is hard-wired (R21). -/
def State.setV (s : State) (k : Reg) (b : Byte) : State := { s with v := s.v.set k.toNat b k.isLt }

/-- `VF`, the flag register (R22). -/
abbrev flagReg : Reg := 0xF

/-- `v[0], ..., v[x]` <- the bytes listed, register `k` from entry `k` (R234). Registers above `x` keep theirs. -/
def State.setBlock (s : State) (x : Reg) (bs : List Byte) : State :=
  { s with v := Vector.ofFn (fun k : Fin 16 => if k.val ≤ x.toNat then bs.getD k.val 0 else s.v[k.val]) }

/-- The bytes of `v[0], ..., v[x]` (R233). -/
def State.getBlock (s : State) (x : Reg) : List Byte := s.v.toList.take (x.toNat + 1)

/-- `pc <- next` (R16). -/
def State.advance (s : State) : State := { s with pc := s.pc + 2 }

/-- `pc <- skip` when the condition holds, else `pc <- next` (R16, R24). -/
def State.skipIf (s : State) (c : Bool) : State := { s with pc := s.pc + (if c then 4 else 2) }

/-- `pc <- target`: the four instructions that "set PC directly" (R140). -/
def State.jump (s : State) (target : Word) : State := { s with pc := target }

/-- `i <- a`. -/
def State.setI (s : State) (a : Word) : State := { s with i := a }

/-- `dt <- b`. -/
def State.setDt (s : State) (b : Byte) : State := { s with dt := b }

/-- `st <- b`. -/
def State.setSt (s : State) (b : Byte) : State := { s with st := b }

/-- Store bytes from address `a` upwards; the caller has checked the bound. -/
def State.store (s : State) (a : Nat) (bs : List Byte) : State := { s with mem := Memory.writeBytes s.mem a bs }

/-- `status <- r`. -/
def State.setStatus (s : State) (r : Status) : State := { s with status := r }

/-- Append an output event to the event trace (R15). -/
def State.emit (s : State) (e : OutEvent) : State := { s with trace := s.trace ++ [e] }

/-! ## Call stack (spec/20_memory.md R74) -/

/-- `sp <- sp + 1; stack[sp] <- ra`, for `sp` below 15. -/
def State.push (s : State) (ra : Word) (h : s.sp.toNat < 15) : State :=
  { s with sp := s.sp + 1, stack := s.stack.set (s.sp.toNat + 1) ra (by omega) }

/-- `sp <- sp - 1`; the slot keeps its value (R141). -/
def State.pop (s : State) : State := { s with sp := s.sp - 1 }

/-! ## Timers -/

/-- One timer's countdown: by one toward 0, never below 0 (R122). -/
def countDownByte (b : Byte) : Byte := if b = 0 then 0 else b - 1

/-- `CountDownTimers()` (R122). -/
def State.countDown (s : State) : State := { s with dt := countDownByte s.dt, st := countDownByte s.st }

/-! ## Framebuffer (spec/20_memory.md R73): every coordinate is reduced modulo 64 and 32 -/

/-- `fb[col][row]`. -/
def Framebuffer.pixel (f : Framebuffer) (col row : Nat) : Bool :=
  (f[row % 32]'(Nat.mod_lt _ (by decide))).getLsbD (col % 64)

/-- `fb[col][row] <- fb[col][row] ^ 1`. -/
def Framebuffer.flip (f : Framebuffer) (col row : Nat) : Framebuffer :=
  f.set (row % 32) (f[row % 32]'(Nat.mod_lt _ (by decide)) ^^^ BitVec.twoPow 64 (col % 64)) (Nat.mod_lt _ (by decide))

/-- The framebuffer with every pixel unset. -/
def Framebuffer.blank : Framebuffer := Vector.replicate 32 0

/-- `fb <- f`. -/
def State.setFb (s : State) (f : Framebuffer) : State := { s with fb := f }

/-! ## Inputs (spec/60_exceptions.md R266 to R272) -/

/-- The byte the next `RND` draws: the supplied one, else the free value (R190). -/
def State.randByte (s : State) : Byte := s.env.randIn.headD (Config.randByte s.env.randDraws)

/-- `draw RandByte()` consumes exactly one draw (R191). -/
def State.takeRand (s : State) : State :=
  { s with env := { s.env with randIn := s.env.randIn.tail, randDraws := s.env.randDraws + 1 } }

/-- The levels of `keys[0..15]` at the next sample: the supplied ones, else the free value (R267). -/
def State.keyLevels (s : State) : BitVec 16 := s.env.keysIn.headD (Config.keyLevels s.env.keySamples)

/-- `KeyPressed(k)` (R15, R267). -/
def State.keyPressed (s : State) (k : Nat) : Bool := s.keyLevels.getLsbD k

/-- The sample is taken: a later one is an input of its own (R210). -/
def State.takeKeys (s : State) : State :=
  { s with env := { s.env with keysIn := s.env.keysIn.tail, keySamples := s.env.keySamples + 1 } }

/-- What the environment does at this boundary. -/
def State.event (s : State) : EnvEvent := s.env.events.headD .idle

/-- The boundary is passed. -/
def State.takeEvent (s : State) : State := { s with env := { s.env with events := s.env.events.tail } }

/-! ## The key wait (spec/47_keypad.md R212 to R214) -/

/-- The suspension of `LD Vx,K`: `wait_x <- x; status <- WaitKey`; `pc` stays (R212). -/
def State.suspend (s : State) (x : Reg) : State := { s with waitX := x, status := .waitKey }

/-- The key event (R213): `v[wait_x] <- k; pc <- next; status <- Running`. -/
def State.keyArrives (s : State) (k : BitVec 4) : State :=
  ((s.setV s.waitX (k.setWidth 8)).advance).setStatus .running

/-- The close transition of R128 and the abort of R214: nothing changes but `status`. -/
def State.close (s : State) : State := s.setStatus .closing

end Sys2Proof.Machine
end

