-- ==== Sys2Proof/Machine/Operands.lean ====
section
/-! DEFINITION. The operand forms (spec/30_encoding.md R93, spec/20_memory.md R72, spec/49_index_memory.md R235). -/

namespace Sys2Proof.Machine

/-- `zext_16(nnn)`: an address operand written to `pc` or `i` (R93). -/
def addrOperand (nnn : Addr) : Word := nnn.setWidth 16

/-- `zext_16(b)`: a byte widened for a 16-bit sum (R144, R230). -/
def wordOperand (b : Byte) : Word := b.setWidth 16

/-- The one data addressing mode: `ea = i + k`, an integer with no wrap and no mask (R72). -/
def State.dataAddr (s : State) (k : Nat) : Nat := s.i.toNat + k

/-- The base address of glyph `b`: `5 × b`, exact in 16 bits and not masked (R231). -/
def glyphAddr (b : Byte) : Word := 5 * wordOperand b

/-- The decimal digits of a byte: hundreds, tens, ones, one a byte (R232). -/
def bcdDigits (b : Byte) : List Byte := [b / 100, b / 10 % 10, b % 10]

/-- The sprite of `n` bytes at `i`, top row first (spec/46_display.md R196). -/
def State.spriteRows (s : State) (n : Nibble) : List Byte := Memory.readBytes s.mem (s.dataAddr 0) n.toNat

end Sys2Proof.Machine
end

