-- ==== Sys2Proof/Machine/Flow.lean ====
section
/-! DEFINITION. Control transfer (spec/41_flow.md R140 to R144). -/

namespace Sys2Proof.Machine

/-- What a meaning answers. -/
abbrev Result := Host.Outcome State Fault Refusal

/-- `RET` (R141). A state whose `sp` is above 15 has no slot to read (R26). -/
def execRet (s : State) : Result :=
  if s.sp = 0 then .next (s.raise .stackUnderflow)
  else match s.stack[s.sp.toNat]? with
    | some ra => .next ((s.jump ra).pop)
    | none => .fault .noStackSlot

/-- `JP nnn` (R142). -/
def execJp (nnn : Addr) (s : State) : Result := .next (s.jump (addrOperand nnn))

/-- `CALL nnn` (R143): the return address is `pc + 2` (conflict C2). A state whose `sp` is above 15 has no slot to
write (R26). -/
def execCall (nnn : Addr) (s : State) : Result :=
  if s.sp = 15 then .next (s.raise .stackOverflow)
  else if h : s.sp.toNat < 15 then .next ((s.push (s.pc + 2) h).jump (addrOperand nnn))
  else .fault .noStackSlot

/-- `JP V0,nnn` (R144): always `v[0]`; the sum is not reduced modulo 4096. -/
def execJpV0 (nnn : Addr) (s : State) : Result := .next (s.jump (wordOperand (s.getV 0) + addrOperand nnn))

end Sys2Proof.Machine
end

