-- ==== Sys2Proof/Machine/Alu.lean ====
section
/-! DEFINITION. The register-to-register ALU group (spec/44_alu.md R170 to R181). -/

namespace Sys2Proof.Machine

/-- The shape of R170 without a flag: the result is written, then `pc` advances. -/
def State.aluResult (s : State) (x : Reg) (r : Byte) : State := (s.setV x r).advance

/-- The shape of R170 with a flag: the result is written, then `VF`, so that `x = 15` ends as the flag (R180). -/
def State.aluFlag (s : State) (x : Reg) (r f : Byte) : State := ((s.setV x r).setV flagReg f).advance

/-- `MOV Vx,Vy` (R171). -/
def execMov (x y : Reg) (s : State) : Result := .next (s.aluResult x (s.getV y))

/-- `OR Vx,Vy` (R172). -/
def execOr (x y : Reg) (s : State) : Result := .next (s.aluResult x (s.getV x ||| s.getV y))

/-- `AND Vx,Vy` (R173). -/
def execAnd (x y : Reg) (s : State) : Result := .next (s.aluResult x (s.getV x &&& s.getV y))

/-- `XOR Vx,Vy` (R174). -/
def execXor (x y : Reg) (s : State) : Result := .next (s.aluResult x (s.getV x ^^^ s.getV y))

/-- `ADD Vx,Vy` (R175). -/
def execAdd (x y : Reg) (s : State) : Result :=
  .next (s.aluFlag x (s.getV x + s.getV y) (carryFlag (s.getV x) (s.getV y)))

/-- `SUB Vx,Vy` (R176): `v[x] - v[y]`. -/
def execSub (x y : Reg) (s : State) : Result :=
  .next (s.aluFlag x (s.getV x - s.getV y) (notBorrowFlag (s.getV x) (s.getV y)))

/-- `SHR Vx` (R177): shifts `v[x]`; `y` is ignored (R104). -/
def execShr (x _y : Reg) (s : State) : Result := .next (s.aluFlag x (s.getV x >>> 1) (lowBitFlag (s.getV x)))

/-- `SUBN Vx,Vy` (R178): `v[y] - v[x]`, into `v[x]`. -/
def execSubn (x y : Reg) (s : State) : Result :=
  .next (s.aluFlag x (s.getV y - s.getV x) (notBorrowFlag (s.getV y) (s.getV x)))

/-- `SHL Vx` (R179): shifts `v[x]`; `y` is ignored (R104). -/
def execShl (x _y : Reg) (s : State) : Result := .next (s.aluFlag x (s.getV x <<< 1) (highBitFlag (s.getV x)))

end Sys2Proof.Machine
end

