-- ==== Sys2Proof/Machine/Display.lean ====
section
/-! DEFINITION. The display (spec/46_display.md R195 to R200). -/

namespace Sys2Proof.Machine

/-- `CLS` (R195): `Clear` is emitted even when nothing was set; no `Present`. -/
def execCls (s : State) : Result := .next ((s.setFb Framebuffer.blank).emit .clear).advance

/-- What drawing has done so far: the framebuffer and the collision `c` of R197. -/
abbrev Blit := Framebuffer × Bool

/-- One 1 bit of a sprite lands on a pixel: collision if it was set, then the pixel flips (R197 line 5, R198). -/
def blitPixel (b : Blit) (col row : Nat) : Blit := (b.1.flip col row, b.2 || b.1.pixel col row)

/-- The sprite bit at column `k` of its row: bit 7 is the leftmost pixel (R196). -/
def spriteBit (bits : Byte) (k : Nat) : Bool := bits.getLsbD (7 - k)

/-- The columns `k, ..., k + m - 1` of one sprite row whose column 0 lands at `(x0, row)`. -/
def blitColumns (b : Blit) (x0 row : Nat) (bits : Byte) (k : Nat) : Nat → Blit
  | 0 => b
  | m + 1 => blitColumns (if spriteBit bits k then blitPixel b (x0 + k) row else b) x0 row bits (k + 1) m

/-- The rows of a sprite whose first row lands at `(x0, y0)`: R197 line 5. -/
def blitRows (b : Blit) (x0 y0 : Nat) : List Byte → Blit
  | [] => b
  | bits :: rows => blitRows (blitColumns b x0 y0 bits 0 8) x0 (y0 + 1) rows

/-- R197 lines 6 to 8 after the drawing: `VF`, `Present` under `on_collision`, `pc`. -/
def State.drawn (s : State) (b : Blit) : State :=
  let t := (s.setFb b.1).setV flagReg (flagByte b.2)
  (if b.2 && t.params.presentPolicy == .onCollision then t.emit .present else t).advance

/-- `DRW Vx,Vy,n` (R197): coordinates, base and sprite bytes are read first; a sprite byte outside memory faults with
nothing drawn. -/
def execDrw (x y : Reg) (n : Nibble) (s : State) : Result :=
  .next (s.bounded (s.dataAddr 0) n.toNat
    (s.drawn (blitRows (s.fb, false) (s.getV x).toNat (s.getV y).toNat (s.spriteRows n))))

end Sys2Proof.Machine
end

