-- ==== Sys2Proof/Machine/Immediate.lean ====
section
/-! DEFINITION. Immediate loads and add (spec/43_immediate.md R160 to R162). -/

namespace Sys2Proof.Machine

/-- `LD Vx,kk` (R160). -/
def execLdByte (x : Reg) (kk : Byte) (s : State) : Result := .next (s.setV x kk).advance

/-- `ADD Vx,kk` (R161): wrapping, no flag. -/
def execAddByte (x : Reg) (kk : Byte) (s : State) : Result := .next (s.setV x (s.getV x + kk)).advance

/-- `LD I,nnn` (R162). -/
def execLdI (nnn : Addr) (s : State) : Result := .next (s.setI (addrOperand nnn)).advance

end Sys2Proof.Machine
end

