-- ==== Sys2Proof/Machine/IndexMemory.lean ====
section
/-! DEFINITION. The address register and memory (spec/49_index_memory.md R230 to R235). None of the memory
instructions changes `i` (R235). -/

namespace Sys2Proof.Machine

/-- `ADD I,Vx` (R230): 16-bit wrap, no flag. -/
def execAddI (x : Reg) (s : State) : Result := .next (s.setI (s.i + wordOperand (s.getV x))).advance

/-- `LD F,Vx` (R231). -/
def execLdF (x : Reg) (s : State) : Result := .next (s.setI (glyphAddr (s.getV x))).advance

/-- `LD B,Vx` (R232). -/
def execLdB (x : Reg) (s : State) : Result :=
  .next (s.bounded (s.dataAddr 0) 3 (s.store (s.dataAddr 0) (bcdDigits (s.getV x))).advance)

/-- `LD [I],Vx` (R233). -/
def execStoreRegs (x : Reg) (s : State) : Result :=
  .next (s.bounded (s.dataAddr 0) (x.toNat + 1) (s.store (s.dataAddr 0) (s.getBlock x)).advance)

/-- `LD Vx,[I]` (R234): all bytes are read before any register is written. -/
def execLoadRegs (x : Reg) (s : State) : Result :=
  .next (s.bounded (s.dataAddr 0) (x.toNat + 1)
    (s.setBlock x (Memory.readBytes s.mem (s.dataAddr 0) (x.toNat + 1))).advance)

end Sys2Proof.Machine
end

