-- ==== Sys2Proof/Machine/Keypad.lean ====
section
/-! DEFINITION. The keypad (spec/47_keypad.md R210 to R212). The key event and the abort of R213 and R214 are
transitions of their own: `State.keyArrives` and `State.close`, which `Tick.lean` calls. -/

namespace Sys2Proof.Machine

/-- The shape of `SKP` and `SKNP`: a value above 15 is no key (R254); else one sample of the key is taken and the
skip is on its being pressed (`want = true`) or not pressed (`want = false`). -/
def State.skipOnKey (s : State) (k : Byte) (want : Bool) : State :=
  if 15 < k.toNat then s.raise (.keyIndex k)
  else s.takeKeys.skipIf (s.keyPressed k.toNat == want)

/-- `SKP Vx` (R210). -/
def execSkp (x : Reg) (s : State) : Result := .next (s.skipOnKey (s.getV x) true)

/-- `SKNP Vx` (R211). -/
def execSknp (x : Reg) (s : State) : Result := .next (s.skipOnKey (s.getV x) false)

/-- `LD Vx,K` (R212): the handler suspends the machine; `pc` still addresses the instruction. -/
def execLdVxK (x : Reg) (s : State) : Result := .next (s.suspend x)

end Sys2Proof.Machine
end

