-- ==== Sys2Proof/Machine/Random.lean ====
section
/-! DEFINITION. The random number (spec/45_random.md R190, R191). -/

namespace Sys2Proof.Machine

/-- `RND Vx,kk` (R191): one draw, masked; the draw is consumed whatever `kk` is. -/
def execRnd (x : Reg) (kk : Byte) (s : State) : Result := .next ((s.takeRand).setV x (s.randByte &&& kk)).advance

end Sys2Proof.Machine
end

