-- ==== Sys2Proof/Machine/Skip.lean ====
section
/-! DEFINITION. Conditional skips on values (spec/42_skip.md R150 to R154). -/

namespace Sys2Proof.Machine

/-- `SE Vx,kk` (R151). -/
def execSeByte (x : Reg) (kk : Byte) (s : State) : Result := .next (s.skipIf (s.getV x == kk))

/-- `SNE Vx,kk` (R152). -/
def execSneByte (x : Reg) (kk : Byte) (s : State) : Result := .next (s.skipIf (s.getV x != kk))

/-- `SE Vx,Vy` (R153). -/
def execSeReg (x y : Reg) (s : State) : Result := .next (s.skipIf (s.getV x == s.getV y))

/-- `SNE Vx,Vy` (R154). -/
def execSneReg (x y : Reg) (s : State) : Result := .next (s.skipIf (s.getV x != s.getV y))

end Sys2Proof.Machine
end

