-- ==== Sys2Proof/Machine/Timers.lean ====
section
/-! DEFINITION. Timer access (spec/48_timers.md R220 to R223). The countdown of the tick comes before the handler
(R121), so `dt` here is the value after it. -/

namespace Sys2Proof.Machine

/-- `LD Vx,DT` (R220). -/
def execLdVxDt (x : Reg) (s : State) : Result := .next (s.setV x s.dt).advance

/-- `LD DT,Vx` (R221). -/
def execLdDtVx (x : Reg) (s : State) : Result := .next (s.setDt (s.getV x)).advance

/-- `LD ST,Vx` (R222). -/
def execLdStVx (x : Reg) (s : State) : Result := .next (s.setSt (s.getV x)).advance

end Sys2Proof.Machine
end

