-- ==== Sys2Proof/Machine/Tick.lean ====
section
/-! DEFINITION. The transitions of the machine (spec/40_execution_cycle.md R121 to R130, spec/47_keypad.md R213,
R214): the tick step, the close transition and the two ends of a key wait. `Step.lean` only chooses among them. -/

namespace Sys2Proof.Machine

/-- `Fetch(pc)` (R123): two bytes, big-endian, as memory is now; else the lowest address outside memory. -/
def State.fetch (s : State) : Except Nat Word :=
  match firstOutside s.pc.toNat 2 with
  | some a => .error a
  | none => .ok (opcodeOfBytes (Memory.read s.mem s.pc.toNat) (Memory.read s.mem (s.pc.toNat + 1)))

/-- The `Present` of `PRESENT_POLICY = every_tick` (R199), at the end of a tick step that did not fault (R258: a
faulting instruction emits no event; log entry 9). -/
def State.endTick (s : State) : State :=
  if s.params.presentPolicy = .everyTick ∧ s.status ≠ .faulted then s.emit .present else s

/-- The end of the tick on what the handler answered. -/
def endTickResult : Result → Result
  | .next t => .next t.endTick
  | .fault r => .fault r
  | .refused r => .refused r

/-- Lines 2 to 4 of `TickStep` (R121), on a state whose timers have counted down: fetch, decode, execute. -/
def fetchAndExecute (s : State) : Result :=
  match s.fetch with
  | .error a => .next (s.raise (.memoryBounds a))
  | .ok w =>
    match decodeWord s.params.decodeStrict w with
    | .error _ => .next (s.raise (.decodeError w))
    | .ok i => exec i s

/-- `TickStep` (R121). -/
def tick (s : State) : Result := endTickResult (fetchAndExecute s.countDown)

/-- A step in `Running`: at the boundary the close transition (R128) or a tick step. A key event is delivered in
`WaitKey` only (R268), so at this boundary it is nothing. -/
def runningStep (s : State) : Result :=
  match s.event with
  | .close => .next s.takeEvent.close
  | .idle | .key _ => tick s.takeEvent

/-- A step in `WaitKey` (R126): the key event (R213), the abort (R214), or nothing, the wait going on (R212). -/
def waitStep (s : State) : Result :=
  match s.event with
  | .key k => .next (s.takeEvent.keyArrives k)
  | .close => .next s.takeEvent.close
  | .idle => .next s.takeEvent

/-- Place a word at `pc`, the byte of lower address first (spec/20_memory.md R67), where the two bytes exist. -/
def State.placeWord (s : State) (w : Word) : State :=
  match firstOutside s.pc.toNat 2 with
  | some _ => s
  | none => s.store s.pc.toNat (wordBytes w)

end Sys2Proof.Machine
end

