-- ==== Sys2Proof/Machine/Step.lean ====
section
/-! DEFINITION. One step of the machine (spec/10_state.md R32, spec/40_execution_cycle.md R126). -/

namespace Sys2Proof.Machine

/-- One transition. In `Closing` and `Faulted` nothing is enabled (R126). -/
def step (s : State) : Host.Outcome State Fault Refusal :=
  match s.status with
  | .running => runningStep s
  | .waitKey => waitStep s
  | .closing => .fault .machineClosed
  | .faulted => .fault .machineFaulted

/-- The state with a word of the opcode table placed where `step` fetches: the two bytes at `pc`. In a state that is
`Running`, with no close due and `pc` below 0xFFF, the next step fetches and runs it (log entry 3). -/
def State.withFetchWord (s : State) (nbits w : Nat) : State := s.placeWord (tableWord nbits w)

end Sys2Proof.Machine
end

