-- ==== Sys2Proof/Machine/Boot.lean ====
section
/-! DEFINITION. The reset sequence with a ROM (spec/70_reset_and_hazards.md R290 to R293) and its open parameters
(spec/00_scope.md Table R7). `State.reset` is this sequence at the defaults with an empty ROM. -/

namespace Sys2Proof.Machine

/-- `ROM_BASE` of Table R6. -/
def romBase : Nat := 0x200

/-- The defaults of Table R7. -/
def BootParams.default : BootParams :=
  { resetPc := 0x0200, resetSp := 0, font := Vector.ofFn (fun k : Fin 80 => fontTable.getD k.val 0), params := Params.default }

/-- The reset sequence (R290): a ROM above 3584 bytes is a load error, and the core never leaves reset (R293). -/
def boot (p : BootParams) (rom : List Byte) : Option State :=
  if romWellFormed rom then
    some { ((State.reset.store 0 p.font.toList).store romBase rom) with
      pc := p.resetPc, sp := p.resetSp, params := p.params }
  else none

end Sys2Proof.Machine
end

