-- ==== Sys2Proof/Safety.lean ====
section
/-! DEFINITION. What claims call a good state: the invariants of the machine, and the frames of its instructions. -/

namespace Sys2Proof.Machine

/-- R26: 0 ≤ sp ≤ 15. -/
abbrev State.spInRange (s : State) : Prop := s.sp.toNat ≤ 15

/-- R33: there is a fault record exactly in `Faulted`. -/
abbrev State.faultRecorded (s : State) : Prop := s.status = .faulted ↔ s.fault.isSome = true

/-- R24 and R27: `pc` is 0x0000 to 0x10FE, every slot holds at most 0x1000 (the address after a fetched `CALL`), and
the `pc` of a suspended `LD Vx,K` is one that was fetched from. -/
abbrev State.pcInRange (s : State) : Prop :=
  s.pc.toNat ≤ 0x10FE ∧ (∀ k : Fin 16, s.stack[k.val].toNat ≤ 0x1000) ∧ (s.status = .waitKey → s.pc.toNat ≤ 0xFFE)

/-- What every step keeps: the canonical form of memory, `sp` in range, the fault record, `pc` in range. -/
abbrev State.good (s : State) : Prop :=
  Memory.wf s.mem ∧ s.spInRange ∧ s.faultRecorded ∧ s.pcInRange

/-- A run that has not ended in a fault (R260: a claim that a program ends well includes this). -/
abbrev State.unfaulted (s : State) : Prop := s.status ≠ .faulted

/-- Every byte of memory reads as before. -/
abbrev sameBytes (s t : State) : Prop := ∀ a, Memory.read t.mem a = Memory.read s.mem a

/-- Every byte of memory outside the `len` bytes at `base` reads as before. -/
abbrev sameBytesOutside (base len : Nat) (s t : State) : Prop :=
  ∀ a, a < base ∨ base + len ≤ a → Memory.read t.mem a = Memory.read s.mem a

/-- Frame: nothing but `pc` differs. -/
abbrev onlyPc (s t : State) : Prop := t = { s with pc := t.pc } ∧ sameBytes s t

/-- Frame: nothing but `pc` and general register `x` differs. -/
abbrev onlyReg (x : Reg) (s t : State) : Prop :=
  t = { s with v := t.v, pc := t.pc } ∧ (∀ k, k ≠ x → t.getV k = s.getV k) ∧ sameBytes s t

/-- Frame: nothing but `pc`, general register `x` and the flag register differs. -/
abbrev onlyRegAndFlag (x : Reg) (s t : State) : Prop :=
  t = { s with v := t.v, pc := t.pc } ∧ (∀ k, k ≠ x → k ≠ flagReg → t.getV k = s.getV k) ∧ sameBytes s t

/-- Every word that `mask` and `mat` select decodes to `f` of it, by either decoder (R100). -/
abbrev encodesAs (mask mat : Word) (f : Word → Instr) : Prop :=
  ∀ (strict : Bool) (w : Word), w &&& mask = mat → decodeWord strict w = .ok (f w)

/-- The registers that Table R42 marks `w` for an instruction: the columns `v[x]` and `v[0]`, and `VF` (register 15)
for the six that define the flag. The `v[x]` of `LD Vx,K` is written by the key event (R213), not by the handler. -/
def writesRegister : Instr → Reg → Bool
  | .cls, _ | .ret, _ | .jp _, _ | .call _, _ | .ldI _, _ | .jpV0 _, _ => false
  | .seByte _ _, _ | .sneByte _ _, _ | .seReg _ _, _ | .sneReg _ _, _ | .skp _, _ | .sknp _, _ => false
  | .ldDtVx _, _ | .ldStVx _, _ | .addI _, _ | .ldF _, _ | .ldB _, _ | .storeRegs _, _ => false
  | .ldByte x _, k | .addByte x _, k | .rnd x _, k | .ldVxDt x, k | .ldVxK x, k => k == x
  | .mov x _, k | .or x _, k | .and x _, k | .xor x _, k => k == x
  | .add x _, k | .sub x _, k | .shr x _, k | .subn x _, k | .shl x _, k => k == x || k == flagReg
  | .drw _ _ _, k => k == flagReg
  | .loadRegs x, k => decide (k.toNat ≤ x.toNat)

/-- A 1 bit of the sprite that `DRW Vx,Vy,n` draws in state `s` lands on the cell `(col, row)` (R196, R197). -/
abbrev State.spriteCovers (s : State) (x y : Reg) (n : Nibble) (col row : Nat) : Prop :=
  ∃ r k, r < n.toNat ∧ k < 8 ∧ (Memory.read s.mem (s.dataAddr 0 + r)).getLsbD (7 - k) = true ∧
    col % 64 = ((s.getV x).toNat + k) % 64 ∧ row % 32 = ((s.getV y).toNat + r) % 32

/-- The sprite meets a pixel that is set before the drawing (R198). -/
abbrev State.collides (s : State) (x y : Reg) (n : Nibble) : Prop :=
  ∃ col row, s.spriteCovers x y n col row ∧ s.fb.pixel col row = true

/-- The state on which the handler of a tick runs: the boundary passed, the timers counted down (R121). -/
abbrev State.ticked (s : State) : State := s.takeEvent.countDown

/-- A tick step runs: `Running`, and the close request is not acted on at this boundary (R121, R128). -/
abbrev State.ticks (s : State) : Prop := s.status = .running ∧ s.event ≠ .close

/-- The word at `pc` is fetched and is the instruction `i` (R123, R124). -/
abbrev State.fetches (s : State) (i : Instr) : Prop :=
  ∃ w, s.fetch = .ok w ∧ decodeWord s.params.decodeStrict w = .ok i

/-- The same state under another `PRESENT_POLICY`. -/
abbrev State.withPolicy (s : State) (p : PresentPolicy) : State :=
  { s with params := { s.params with presentPolicy := p } }

end Sys2Proof.Machine
end

