-- ==== Sys2Proof/Certificates/Slice0/Obligations.lean ====
section
/-! DEFINITION. The statements for the provers, from the spec's numbered rules. Every statement ranges over all states,
so over every choice of the parameters and of the environment's inputs. Where a clause rests on a decision that the
spec marks as its own (D<n> of spec/92_eei_decisions.md), the docstring says so. -/

open Sys2Proof Sys2Proof.Machine

/-! ## Encoding -/

/-- R100: 34 rows, disjoint (the spec's own derivation); a word a row covers is that row's instruction, a word no row
covers is rejected. That the masks of rows 1, 2, 7 and 8 are the strict ones is the spec's decision D10. -/
def Obligations.TableSelectsTheInstruction : Prop :=
  (opcodeTable true).length = 34 ∧ ∀ w : Word,
    (opcodeTable true).Pairwise (fun r q => ¬ (r.covers w = true ∧ q.covers w = true)) ∧
    (∀ r ∈ opcodeTable true, r.covers w = true → decodeWord true w = .ok (r.instr w)) ∧
    ((∀ r ∈ opcodeTable true, r.covers w = false) → decodeWord true w = .error (.unrecognizedOpcode w))

/-- R108 (the spec's decision D10): the loose decoder is the table with the wider masks, and agrees with the strict one
on every word the strict one accepts. -/
def Obligations.LooseDecoderExtendsStrict : Prop := ∀ w : Word,
  (∀ r ∈ opcodeTable false, r.covers w = true → decodeWord false w = .ok (r.instr w)) ∧
  ((∀ r ∈ opcodeTable false, r.covers w = false) → decodeWord false w = .error (.unrecognizedOpcode w)) ∧
  ∀ i, decodeWord true w = .ok i → decodeWord false w = .ok i

/-- R91 to R93: decoding an encoded well-formed instruction gives it back, with every operand, by either decoder; as
bytes in memory order too (R67). -/
def Obligations.DecodeOfEncode : Prop := ∀ (i : Instr) (strict : Bool) (rest : List Byte), i.wellFormed = true →
  decodeWord strict (encode i) = .ok i ∧ decodeBytes strict (encodeBytes i ++ rest) = .ok (i, rest)

/-- R100, R104: each legal word has one meaning and each instruction one word, the ignored field of the shifts
included. -/
def Obligations.EncodeOfDecode : Prop := ∀ (w : Word) (i : Instr), decodeWord true w = .ok i → encode i = w

/-- Table R100: one word of each family, written out from its pattern. -/
def Obligations.SampleWordsDecode : Prop :=
  decodeWord true 0x00E0 = .ok .cls ∧ decodeWord true 0x00EE = .ok .ret ∧
  decodeWord true 0x2ABC = .ok (.call 0xABC) ∧ decodeWord true 0x3A42 = .ok (.seByte 0xA 0x42) ∧
  decodeWord true 0x9120 = .ok (.sneReg 1 2) ∧ decodeWord true 0x7AFF = .ok (.addByte 0xA 0xFF) ∧
  decodeWord true 0x8127 = .ok (.subn 1 2) ∧ decodeWord true 0x84FE = .ok (.shl 4 0xF) ∧
  decodeWord true 0xC30F = .ok (.rnd 3 0x0F) ∧ decodeWord true 0xD01F = .ok (.drw 0 1 0xF) ∧
  decodeWord true 0xE3A1 = .ok (.sknp 3) ∧ decodeWord true 0xF518 = .ok (.ldStVx 5) ∧
  decodeWord true 0xF265 = .ok (.loadRegs 2) ∧ decodeWord true 0x0123 = .error (.unrecognizedOpcode 0x0123)

/-! ## The tick step -/

/-- R123, R67: the opcode is the two bytes at `pc` and `pc + 1`, big-endian, at any parity; outside memory the lowest
offending address. -/
def Obligations.FetchIsBigEndianAndBounded : Prop := ∀ s : State,
  (s.pc.toNat ≤ 0xFFE → ∃ w, s.fetch = .ok w ∧
    w.toNat = (Memory.read s.mem s.pc.toNat).toNat * 256 + (Memory.read s.mem (s.pc.toNat + 1)).toNat) ∧
  (s.pc.toNat = 0xFFF → s.fetch = .error 0x1000) ∧
  (0xFFF < s.pc.toNat → s.fetch = .error s.pc.toNat)

/-- R121, R124, R125: a tick step whose word decodes to `i` is `exec` of `i` on the state whose timers have counted
down (and whose entry of the model's input list is taken, log entry 6). What `step` adds after it changes nothing but
the event trace: under `every_tick` it emits `Present` (R199, the spec's decision D23), under `on_collision` nothing.
That a tick that faults emits no `Present` under `every_tick` either is the model's reading of R199 with R258, log
entry 9. -/
def Obligations.StepRunsDecodedInstruction : Prop := ∀ (s : State) (i : Instr), i.wellFormed = true →
  s.ticks → s.fetches i →
  (∀ t, exec i s.ticked = .next t → step s = .next t.endTick ∧
    t.endTick = { t with trace := t.endTick.trace } ∧
    (t.params.presentPolicy = .everyTick → t.status ≠ .faulted → t.endTick.trace = t.trace ++ [.present]) ∧
    (t.params.presentPolicy = .everyTick → t.status = .faulted → t.endTick = t) ∧
    (t.params.presentPolicy = .onCollision → t.endTick = t)) ∧
  (∀ r, exec i s.ticked = .fault r → step s = .fault r)

/-- R123, R258 (the spec's decisions D7, D19): a fetch outside memory takes the fault entry; the countdown stays.
That this tick emits no `Present` under `every_tick` is the model's reading, log entry 9. -/
def Obligations.FetchOutsideMemoryFaults : Prop := ∀ s : State, s.ticks → 0xFFE < s.pc.toNat →
  step s = .next { s.ticked with status := .faulted, fault := some ⟨.memoryBounds (max s.pc.toNat 0x1000), s.pc⟩ }

/-- R250: a tick step whose word no row covers records the raw opcode and the pc; no handler records a
`DecodeError`. That the rest of the state keeps the tick's countdown is the spec's decision D19; that this tick emits
no `Present` under `every_tick`, which R199 and R258 leave apart, is the model's reading, log entry 9. -/
def Obligations.IllegalWordFaults : Prop :=
  (∀ (s : State) (w : Word) (r : DecodeReject), s.ticks → s.fetch = .ok w →
    decodeWord s.params.decodeStrict w = .error r →
    step s = .next { s.ticked with status := .faulted, fault := some ⟨.decodeError w, s.pc⟩ }) ∧
  ∀ (i : Instr) (s t : State) (w p : Word), exec i s = .next t → t.fault = some ⟨.decodeError w, p⟩ → s.fault = t.fault

/-- R122, R221, R222: a tick step that fetches `LD DT,Vx` leaves `dt = v[x]`; every other one counts `dt` down by one
(0 stays 0), whatever the instruction and also when it faults (the spec's derivation); likewise `st` and `LD ST,Vx`.
No other transition moves the timers. -/
def Obligations.TimersCountDownOncePerTick : Prop := ∀ s t : State, step s = .next t →
  (s.ticks →
    (∀ x, s.fetches (.ldDtVx x) → t.dt = s.getV x) ∧
    ((∀ x, ¬ s.fetches (.ldDtVx x)) → t.dt.toNat = s.dt.toNat - 1) ∧
    (∀ x, s.fetches (.ldStVx x) → t.st = s.getV x) ∧
    ((∀ x, ¬ s.fetches (.ldStVx x)) → t.st.toNat = s.st.toNat - 1)) ∧
  (¬ s.ticks → t.dt = s.dt ∧ t.st = s.st)

/-- R220, R221, R223: in a tick step `LD Vx,DT` reads the timer after this tick's countdown, and `LD DT,Vx` leaves the
value it writes. -/
def Obligations.TimerAccessSeesItsOwnTick : Prop := ∀ (s : State) (x : Reg), s.ticks →
  (s.fetches (.ldVxDt x) → ∃ t, step s = .next t ∧ (t.getV x).toNat = s.dt.toNat - 1 ∧ t.dt = t.getV x) ∧
  (s.fetches (.ldDtVx x) → ∃ t, step s = .next t ∧ t.dt = s.getV x ∧ t.st.toNat = s.st.toNat - 1)

/-- R128, R214 (the spec's decisions D12, D20): the close transition changes nothing but the status; the model's input
list (log entry 6) moves on. -/
def Obligations.CloseChangesOnlyStatus : Prop := ∀ s : State,
  s.status = .running ∨ s.status = .waitKey → s.event = .close →
  step s = .next { s with status := .closing, env := { s.env with events := s.env.events.tail } }

/-- R213 (the spec's decision D22): the key event, which the model takes from its input list (log entry 6). -/
def Obligations.KeyEventCompletesTheWait : Prop := ∀ (s : State) (k : BitVec 4),
  s.status = .waitKey → s.event = .key k →
  ∃ t, step s = .next t ∧ (t.getV s.waitX).toNat = k.toNat ∧ t.pc = s.pc + 2 ∧ t.status = .running ∧
    (∀ j, j ≠ s.waitX → t.getV j = s.getV j) ∧
    t = { s with v := t.v, pc := t.pc, status := t.status, env := { s.env with events := s.env.events.tail } } ∧
    sameBytes s t

/-- R212: `LD Vx,K` suspends the machine at its own address, and while nothing arrives the wait changes no state but
the model's input list (log entry 6): no register, no timer, no `pc`. -/
def Obligations.KeyWaitSuspends : Prop :=
  encodesAs 0xF0FF 0xF00A (fun w => .ldVxK (xOf w)) ∧
  (∀ (x : Reg) (s : State), exec (.ldVxK x) s = .next { s with waitX := x, status := .waitKey }) ∧
  ∀ s : State, s.status = .waitKey → s.event = .idle →
    step s = .next { s with env := { s.env with events := s.env.events.tail } }

/-- R126: in `Closing` and `Faulted` nothing is enabled; the model says so by a stop of its own name (log entry 10). -/
def Obligations.TerminalStatesStop : Prop := ∀ s : State,
  (s.status = .closing → step s = .fault .machineClosed) ∧ (s.status = .faulted → step s = .fault .machineFaulted)

/-- R32 (the spec's decision D1), R126: which events change the run state. The events come from the
model's input list (log entry 6). -/
def Obligations.StatusTransitions : Prop := ∀ s t : State, step s = .next t →
  (s.status = .running ∨ s.status = .waitKey) ∧
  (t.status = .closing → s.event = .close) ∧
  (s.status = .running → t.status = .waitKey → ∃ x, s.fetches (.ldVxK x) ∧ t.waitX = x ∧ t.pc = s.pc) ∧
  (s.status = .waitKey → t.status = .running → ∃ k, s.event = .key k) ∧
  (s.status = .waitKey → t.status ≠ .faulted)

/-! ## Faults -/

/-- R258, R259 (the spec's decision D19): a fault is precise. Whatever raised it, the state differs from the one whose
timers have counted down in the status and the record alone, and the record holds the `pc` of the instruction. That
the event trace is unchanged under `every_tick` too, where R199 and R258 pull apart, is the model's reading, log
entry 9. -/
def Obligations.FaultsArePrecise : Prop := ∀ s t : State,
  s.status = .running → step s = .next t → t.status = .faulted →
  (∃ c, t = { s.ticked with status := .faulted, fault := some ⟨c, s.pc⟩ }) ∧ sameBytes s t

/-- R262, Table R255 (the spec's decisions D7, D8, D9, D11): which handlers fault, on what, and with which record. -/
def Obligations.HandlersFaultOnlyOnTheirOwnCheck : Prop := ∀ (i : Instr) (s t : State),
  s.status ≠ .faulted → exec i s = .next t → t.status = .faulted →
  (i = .ret ∧ s.sp = 0 ∧ t = s.raise .stackUnderflow) ∨
  (∃ nnn, i = .call nnn ∧ s.sp = 15 ∧ t = s.raise .stackOverflow) ∨
  (∃ x, (i = .skp x ∨ i = .sknp x) ∧ 15 < (s.getV x).toNat ∧ t = s.raise (.keyIndex (s.getV x))) ∨
  (∃ len, ((∃ x y n, i = .drw x y n ∧ len = n.toNat ∧ 0 < len) ∨ (∃ x, i = .ldB x ∧ len = 3) ∨
      (∃ x, (i = .storeRegs x ∨ i = .loadRegs x) ∧ len = x.toNat + 1)) ∧
    0xFFF < s.i.toNat + len - 1 ∧ t = s.raise (.memoryBounds (max s.i.toNat 0x1000)))

/-- R251, R79 (the spec's decision D7): the memory instructions that would leave memory do nothing but raise, with the
lowest offending address. -/
def Obligations.DataOutsideMemoryFaults : Prop := ∀ s : State,
  (∀ x y n, 0 < n.toNat → 0xFFF < s.i.toNat + n.toNat - 1 →
    exec (.drw x y n) s = .next { s with status := .faulted, fault := some ⟨.memoryBounds (max s.i.toNat 0x1000), s.pc⟩ }) ∧
  (∀ x, 0xFFF < s.i.toNat + 2 →
    exec (.ldB x) s = .next { s with status := .faulted, fault := some ⟨.memoryBounds (max s.i.toNat 0x1000), s.pc⟩ }) ∧
  (∀ x : Reg, 0xFFF < s.i.toNat + x.toNat →
    exec (.storeRegs x) s =
      .next { s with status := .faulted, fault := some ⟨.memoryBounds (max s.i.toNat 0x1000), s.pc⟩ } ∧
    exec (.loadRegs x) s =
      .next { s with status := .faulted, fault := some ⟨.memoryBounds (max s.i.toNat 0x1000), s.pc⟩ })

/-- R252, R253 (the spec's decisions D8, D9): `CALL` at `sp = 15` and `RET` at `sp = 0` do nothing but raise. Above 15,
a value R26 says is never held, there is no slot and the model stops by name (log entry 11). -/
def Obligations.StackOverflowAndUnderflow : Prop := ∀ s : State,
  (s.sp = 0 → exec .ret s = .next { s with status := .faulted, fault := some ⟨.stackUnderflow, s.pc⟩ }) ∧
  (∀ nnn, s.sp = 15 → exec (.call nnn) s = .next { s with status := .faulted, fault := some ⟨.stackOverflow, s.pc⟩ }) ∧
  (15 < s.sp.toNat → exec .ret s = .fault .noStackSlot ∧ ∀ nnn, exec (.call nnn) s = .fault .noStackSlot)

/-- R254 (the spec's decision D11): a key index above 15 raises and nothing else. -/
def Obligations.KeyIndexAboveFifteenFaults : Prop := ∀ (s : State) (x : Reg), 15 < (s.getV x).toNat →
  exec (.skp x) s = .next { s with status := .faulted, fault := some ⟨.keyIndex (s.getV x), s.pc⟩ } ∧
  exec (.sknp x) s = .next { s with status := .faulted, fault := some ⟨.keyIndex (s.getV x), s.pc⟩ }

/-! ## Invariants of the machine -/

/-- R24, R26, R27, R33: every step keeps the canonical form of memory, `sp` at most 15, a fault record exactly in
`Faulted`, and `pc` at most 0x10FE. -/
def Obligations.GoodIsInvariant : Prop := ∀ s t : State, s.good → step s = .next t → t.good

/-- Table R40: the reset state meets the invariant. -/
def Obligations.ResetIsGood : Prop := State.reset.good

/-- R290, R292: so does every state a ROM is started in, whatever the open parameters within their ranges. -/
def Obligations.BootIsGood : Prop := ∀ (p : BootParams) (rom : List Byte) (s : State),
  boot p rom = some s → p.resetSp.toNat ≤ 15 → p.resetPc.toNat ≤ 0x10FE → s.good

/-- R126, R130: a good machine that is `Running` or in `WaitKey` always has a next state: no ordinary data ends a run
without a fault record. -/
def Obligations.GoodMachineIsNeverStuck : Prop := ∀ s : State, s.good →
  s.status = .running ∨ s.status = .waitKey → ∃ t, step s = .next t

/-- R38: no step changes the parameters. -/
def Obligations.ParametersAreFixed : Prop := ∀ s t : State, step s = .next t → t.params = s.params

/-- Table R42: which instruction writes which state, the general registers and `VF` first. The trace and the inputs
are fields of the model (log entries 16, 7 and 8). -/
def Obligations.WritesFollowTheAccessMatrix : Prop := ∀ (i : Instr) (s t : State), exec i s = .next t →
  (∀ k, t.getV k ≠ s.getV k → writesRegister i k = true) ∧
  (t.fb ≠ s.fb → i = .cls ∨ ∃ x y n, i = .drw x y n) ∧
  (t.stack ≠ s.stack → ∃ nnn, i = .call nnn) ∧
  (t.sp ≠ s.sp → i = .ret ∨ ∃ nnn, i = .call nnn) ∧
  (t.i ≠ s.i → (∃ nnn, i = .ldI nnn) ∨ ∃ x, i = .addI x ∨ i = .ldF x) ∧
  (t.dt ≠ s.dt → ∃ x, i = .ldDtVx x) ∧
  (t.st ≠ s.st → ∃ x, i = .ldStVx x) ∧
  (t.mem ≠ s.mem → ∃ x, i = .ldB x ∨ i = .storeRegs x) ∧
  (t.trace ≠ s.trace → i = .cls ∨ ∃ x y n, i = .drw x y n) ∧
  (t.waitX ≠ s.waitX → ∃ x, i = .ldVxK x) ∧
  (t.env ≠ s.env → (∃ x kk, i = .rnd x kk) ∨ ∃ x, i = .skp x ∨ i = .sknp x) ∧
  t.params = s.params

/-- R22: exactly six instructions define a flag, and each writes 0 or 1 on both outcomes; any other change of `VF` is
register F being the named destination. -/
def Obligations.OnlySixInstructionsDefineTheFlag : Prop := ∀ (i : Instr) (s t : State), exec i s = .next t →
  (∀ x y, i = .add x y ∨ i = .sub x y ∨ i = .shr x y ∨ i = .subn x y ∨ i = .shl x y →
    t.getV flagReg = 0 ∨ t.getV flagReg = 1) ∧
  (∀ x y n, i = .drw x y n → t = s.raise (.memoryBounds (max s.i.toNat 0x1000)) ∨
    t.getV flagReg = 0 ∨ t.getV flagReg = 1) ∧
  (t.getV flagReg ≠ s.getV flagReg →
    (∃ x y, i = .add x y ∨ i = .sub x y ∨ i = .shr x y ∨ i = .subn x y ∨ i = .shl x y) ∨
    (∃ x y n, i = .drw x y n) ∨
    (∃ kk, i = .ldByte flagReg kk ∨ i = .addByte flagReg kk ∨ i = .rnd flagReg kk) ∨
    (∃ y, i = .mov flagReg y ∨ i = .or flagReg y ∨ i = .and flagReg y ∨ i = .xor flagReg y) ∨
    i = .ldVxDt flagReg ∨ i = .loadRegs flagReg)

/-- R130: no handler but those of `RND`, `SKP` and `SKNP` depends on the environment's inputs. `LD Vx,K` consumes a key
event or an abort too, but in the transition that ends its wait (`KeyEventCompletesTheWait`), not in its handler. That
the inputs stand in one field of State is the model's (log entries 6, 7 and 8). -/
def Obligations.OtherInstructionsReadNoInput : Prop := ∀ (i : Instr) (s : State) (e : Env),
  (∀ x kk, i ≠ .rnd x kk) → (∀ x, i ≠ .skp x ∧ i ≠ .sknp x) →
  (∀ t, exec i s = .next t → exec i { s with env := e } = .next { t with env := e }) ∧
  ∀ r, exec i s = .fault r → exec i { s with env := e } = .fault r

/-- R199: the choice of `PRESENT_POLICY` shows in the event trace alone. -/
def Obligations.PresentPolicyAffectsOnlyTheTrace : Prop := ∀ (s t : State) (p : PresentPolicy), step s = .next t →
  ∃ u, step (s.withPolicy p) = .next u ∧ { u with trace := [], params := s.params } = { t with trace := [] }

/-! ## Reset -/

/-- Table R40, R290: the reset state and the memory it reads. The framebuffer, the placement of the font and the
status are the document's; every other value is the spec's decision D2 to D6. -/
def Obligations.ResetLeavesTableR40 : Prop :=
  State.reset.pc = 0x0200 ∧ State.reset.i = 0 ∧ State.reset.sp = 0 ∧ State.reset.dt = 0 ∧ State.reset.st = 0 ∧
  (∀ k, State.reset.getV k = 0) ∧ (∀ k : Fin 16, State.reset.stack[k.val] = 0) ∧
  (∀ col row, State.reset.fb.pixel col row = false) ∧
  State.reset.status = .running ∧ State.reset.fault = none ∧ State.reset.trace = [] ∧
  (∀ k (h : k < fontTable.length), Memory.read State.reset.mem k = fontTable[k]) ∧
  (∀ a, 0x050 ≤ a → Memory.read State.reset.mem a = 0)

/-- R290, R292, R293: byte `k` of the ROM goes to 0x200 + k, the font to 0x000 to 0x04F, every other byte is zero (the
spec's decision D5); the registers, timers and stack slots are zero (decision D4), the screen is blank, the
machine is `Running` with no fault record and an empty trace (R290 lines 5 to 8); a ROM above 3584 bytes is a load
error. -/
def Obligations.BootPlacesFontAndRom : Prop := ∀ (p : BootParams) (rom : List Byte),
  (rom.length ≤ 3584 → ∃ s, boot p rom = some s ∧ s.pc = p.resetPc ∧ s.sp = p.resetSp ∧
    s.params = p.params ∧ s.i = 0 ∧ s.dt = 0 ∧ s.st = 0 ∧ (∀ k, s.getV k = 0) ∧ (∀ k : Fin 16, s.stack[k.val] = 0) ∧
    (∀ col row, s.fb.pixel col row = false) ∧ s.status = .running ∧ s.fault = none ∧ s.trace = [] ∧
    (∀ k (h : k < rom.length), Memory.read s.mem (0x200 + k) = rom[k]) ∧
    (∀ k (h : k < 80), Memory.read s.mem k = p.font[k]) ∧
    (∀ a, 0x050 ≤ a → a < 0x200 ∨ 0x200 + rom.length ≤ a → Memory.read s.mem a = 0)) ∧
  (3584 < rom.length → boot p rom = none)

/-! ## Control transfer -/

/-- R142. -/
def Obligations.JpSetsPc : Prop :=
  encodesAs 0xF000 0x1000 (fun w => .jp (nnnOf w)) ∧
  ∀ (nnn : Addr) (s : State), ∃ t, exec (.jp nnn) s = .next t ∧ t.pc.toNat = nnn.toNat ∧ onlyPc s t

/-- R144: always `v[0]`, not reduced modulo 4096. -/
def Obligations.JpV0AddsRegisterZero : Prop :=
  encodesAs 0xF000 0xB000 (fun w => .jpV0 (nnnOf w)) ∧
  ∀ (nnn : Addr) (s : State), ∃ t, exec (.jpV0 nnn) s = .next t ∧
    t.pc.toNat = (s.getV 0).toNat + nnn.toNat ∧ onlyPc s t

/-- R143 below the overflow: the return address is the instruction after the `CALL`. -/
def Obligations.CallPushesReturnAddress : Prop :=
  encodesAs 0xF000 0x2000 (fun w => .call (nnnOf w)) ∧
  ∀ (nnn : Addr) (s : State) (h : s.sp.toNat < 15), ∃ t, exec (.call nnn) s = .next t ∧
    t.sp.toNat = s.sp.toNat + 1 ∧ t.stack[s.sp.toNat + 1] = s.pc + 2 ∧ t.pc.toNat = nnn.toNat ∧
    (∀ k : Fin 16, k.val ≠ s.sp.toNat + 1 → t.stack[k.val] = s.stack[k.val]) ∧
    t = { s with pc := t.pc, sp := t.sp, stack := t.stack } ∧ sameBytes s t

/-- R141 inside a call: `pc` is the slot's value with nothing added, and the slot keeps it. -/
def Obligations.RetPopsReturnAddress : Prop :=
  encodesAs 0xFFFF 0x00EE (fun _ => .ret) ∧
  ∀ (s : State) (h : s.sp.toNat < 16), s.sp ≠ 0 → ∃ t, exec .ret s = .next t ∧
    t.pc = s.stack[s.sp.toNat] ∧ t.sp.toNat = s.sp.toNat - 1 ∧
    t = { s with pc := t.pc, sp := t.sp } ∧ sameBytes s t

/-- R141: `CALL` then `RET`, wherever the subroutine has gone meanwhile, continues after the `CALL` with `sp` as
before. -/
def Obligations.RetUndoesCall : Prop := ∀ (nnn : Addr) (s : State) (p : Word), s.sp.toNat < 15 →
  ∃ t u, exec (.call nnn) s = .next t ∧ exec .ret { t with pc := p } = .next u ∧ u.pc = s.pc + 2 ∧ u.sp = s.sp

/-! ## Skips, immediates, ALU -/

/-- R151, R152. -/
def Obligations.SkipsOnByte : Prop :=
  encodesAs 0xF000 0x3000 (fun w => .seByte (xOf w) (kkOf w)) ∧
  encodesAs 0xF000 0x4000 (fun w => .sneByte (xOf w) (kkOf w)) ∧
  ∀ (x : Reg) (kk : Byte) (s : State),
    (∃ t, exec (.seByte x kk) s = .next t ∧ t.pc = s.pc + (if s.getV x = kk then 4 else 2) ∧ onlyPc s t) ∧
    ∃ t, exec (.sneByte x kk) s = .next t ∧ t.pc = s.pc + (if s.getV x ≠ kk then 4 else 2) ∧ onlyPc s t

/-- R153, R154; the encoding of a nonzero low nibble is a `DecodeError` under the strict decoder. -/
def Obligations.SkipsOnRegister : Prop :=
  encodesAs 0xF00F 0x5000 (fun w => .seReg (xOf w) (yOf w)) ∧
  encodesAs 0xF00F 0x9000 (fun w => .sneReg (xOf w) (yOf w)) ∧
  (∀ w : Word, (groupOf w = 5 ∨ groupOf w = 9) → nOf w ≠ 0 → decodeWord true w = .error (.unrecognizedOpcode w)) ∧
  ∀ (x y : Reg) (s : State),
    (∃ t, exec (.seReg x y) s = .next t ∧ t.pc = s.pc + (if s.getV x = s.getV y then 4 else 2) ∧ onlyPc s t) ∧
    ∃ t, exec (.sneReg x y) s = .next t ∧ t.pc = s.pc + (if s.getV x ≠ s.getV y then 4 else 2) ∧ onlyPc s t

/-- R160, R161: no flag; the sum wraps. -/
def Obligations.ByteImmediates : Prop :=
  encodesAs 0xF000 0x6000 (fun w => .ldByte (xOf w) (kkOf w)) ∧
  encodesAs 0xF000 0x7000 (fun w => .addByte (xOf w) (kkOf w)) ∧
  ∀ (x : Reg) (kk : Byte) (s : State),
    (∃ t, exec (.ldByte x kk) s = .next t ∧ t.getV x = kk ∧ t.pc = s.pc + 2 ∧ onlyReg x s t) ∧
    ∃ t, exec (.addByte x kk) s = .next t ∧ (t.getV x).toNat = ((s.getV x).toNat + kk.toNat) % 256 ∧
      t.pc = s.pc + 2 ∧ onlyReg x s t

/-- R162. -/
def Obligations.LdISetsAddressRegister : Prop :=
  encodesAs 0xF000 0xA000 (fun w => .ldI (nnnOf w)) ∧
  ∀ (nnn : Addr) (s : State), ∃ t, exec (.ldI nnn) s = .next t ∧ t.i.toNat = nnn.toNat ∧ t.pc = s.pc + 2 ∧
    t = { s with i := t.i, pc := t.pc } ∧ sameBytes s t

/-- R171 to R174: no flag, and with `x = 15` the register F is an ordinary destination. -/
def Obligations.FlaglessAlu : Prop :=
  encodesAs 0xF00F 0x8000 (fun w => .mov (xOf w) (yOf w)) ∧ encodesAs 0xF00F 0x8001 (fun w => .or (xOf w) (yOf w)) ∧
  encodesAs 0xF00F 0x8002 (fun w => .and (xOf w) (yOf w)) ∧ encodesAs 0xF00F 0x8003 (fun w => .xor (xOf w) (yOf w)) ∧
  ∀ (x y : Reg) (s : State),
    (∃ t, exec (.mov x y) s = .next t ∧ t.getV x = s.getV y ∧ t.pc = s.pc + 2 ∧ onlyReg x s t) ∧
    (∃ t, exec (.or x y) s = .next t ∧ t.getV x = s.getV x ||| s.getV y ∧ t.pc = s.pc + 2 ∧ onlyReg x s t) ∧
    (∃ t, exec (.and x y) s = .next t ∧ t.getV x = s.getV x &&& s.getV y ∧ t.pc = s.pc + 2 ∧ onlyReg x s t) ∧
    ∃ t, exec (.xor x y) s = .next t ∧ t.getV x = s.getV x ^^^ s.getV y ∧ t.pc = s.pc + 2 ∧ onlyReg x s t

/-- R175; that `x = 15` ends as the flag is R180 (the spec's decision D13). -/
def Obligations.AddSetsCarry : Prop :=
  encodesAs 0xF00F 0x8004 (fun w => .add (xOf w) (yOf w)) ∧
  ∀ (x y : Reg) (s : State), ∃ t, exec (.add x y) s = .next t ∧
    t.getV flagReg = (if 255 < (s.getV x).toNat + (s.getV y).toNat then 1 else 0) ∧
    (x ≠ flagReg → (t.getV x).toNat = ((s.getV x).toNat + (s.getV y).toNat) % 256) ∧
    t.pc = s.pc + 2 ∧ onlyRegAndFlag x s t

/-- R176, R178; that `x = 15` ends as the flag is R180 (the spec's decision D13). -/
def Obligations.SubtractionsSetNotBorrow : Prop :=
  encodesAs 0xF00F 0x8005 (fun w => .sub (xOf w) (yOf w)) ∧ encodesAs 0xF00F 0x8007 (fun w => .subn (xOf w) (yOf w)) ∧
  ∀ (x y : Reg) (s : State),
    (∃ t, exec (.sub x y) s = .next t ∧
      t.getV flagReg = (if (s.getV x).toNat ≥ (s.getV y).toNat then 1 else 0) ∧
      (x ≠ flagReg → (t.getV x).toNat = ((s.getV x).toNat + 256 - (s.getV y).toNat) % 256) ∧
      t.pc = s.pc + 2 ∧ onlyRegAndFlag x s t) ∧
    ∃ t, exec (.subn x y) s = .next t ∧
      t.getV flagReg = (if (s.getV y).toNat ≥ (s.getV x).toNat then 1 else 0) ∧
      (x ≠ flagReg → (t.getV x).toNat = ((s.getV y).toNat + 256 - (s.getV x).toNat) % 256) ∧
      t.pc = s.pc + 2 ∧ onlyRegAndFlag x s t

/-- R177, R179, R104: the shifts act on `v[x]`, whatever `y` is; that `x = 15` ends as the flag is R180 (the spec's
decision D13). -/
def Obligations.ShiftsMoveOneBitIntoTheFlag : Prop :=
  encodesAs 0xF00F 0x8006 (fun w => .shr (xOf w) (yOf w)) ∧ encodesAs 0xF00F 0x800E (fun w => .shl (xOf w) (yOf w)) ∧
  ∀ (x y : Reg) (s : State),
    (∃ t, exec (.shr x y) s = .next t ∧ (t.getV flagReg).toNat = (s.getV x).toNat % 2 ∧
      (x ≠ flagReg → (t.getV x).toNat = (s.getV x).toNat / 2) ∧ t.pc = s.pc + 2 ∧ onlyRegAndFlag x s t) ∧
    ∃ t, exec (.shl x y) s = .next t ∧ (t.getV flagReg).toNat = (s.getV x).toNat / 128 ∧
      (x ≠ flagReg → (t.getV x).toNat = (s.getV x).toNat * 2 % 256) ∧ t.pc = s.pc + 2 ∧ onlyRegAndFlag x s t

/-! ## Random, display, keypad -/

/-- R191: one draw, masked. That the draw is the supplied byte where there is one, else a free value of which nothing
is claimed, and that `env` counts it, is the model's rendering of the free draw, log entry 8. -/
def Obligations.RndMasksOneDraw : Prop :=
  encodesAs 0xF000 0xC000 (fun w => .rnd (xOf w) (kkOf w)) ∧
  ∀ (x : Reg) (kk : Byte) (s : State), ∃ t, exec (.rnd x kk) s = .next t ∧
    t.getV x = s.randByte &&& kk ∧ (∀ b bs, s.env.randIn = b :: bs → t.getV x = b &&& kk) ∧
    t.getV x &&& ~~~ kk = 0 ∧ (t.getV x).toNat ≤ kk.toNat ∧
    t.env = { s.env with randIn := s.env.randIn.tail, randDraws := s.env.randDraws + 1 } ∧ t.pc = s.pc + 2 ∧
    t = { s with v := t.v, pc := t.pc, env := t.env } ∧ (∀ k, k ≠ x → t.getV k = s.getV k) ∧ sameBytes s t

/-- R195: `Clear` is emitted in any case, `Present` is not, `VF` is not touched. -/
def Obligations.ClsClearsTheScreen : Prop :=
  encodesAs 0xFFFF 0x00E0 (fun _ => .cls) ∧
  ∀ s : State, ∃ t, exec .cls s = .next t ∧ (∀ col row, t.fb.pixel col row = false) ∧
    t.trace = s.trace ++ [.clear] ∧ t.pc = s.pc + 2 ∧
    t = { s with fb := t.fb, trace := t.trace, pc := t.pc } ∧ sameBytes s t

/-- R197, R198, R199 inside memory: every pixel is flipped exactly where a 1 bit of the sprite lands, each coordinate
wrapping on its own; `VF` is the collision, written on both outcomes; `Present` on a collision under `on_collision`.
The bit order and the reading of `v[x]`, `v[y]` before `VF` is written are the spec's decision D14. -/
def Obligations.DrwFlipsTheSpritesPixels : Prop :=
  encodesAs 0xF000 0xD000 (fun w => .drw (xOf w) (yOf w) (nOf w)) ∧
  ∀ (x y : Reg) (n : Nibble) (s : State), n = 0 ∨ s.i.toNat + n.toNat ≤ 0x1000 →
    ∃ t, exec (.drw x y n) s = .next t ∧
      (∀ col row, t.fb.pixel col row = true ↔ ¬ (s.fb.pixel col row = true ↔ s.spriteCovers x y n col row)) ∧
      ((s.collides x y n ∧ t.getV flagReg = 1 ∧
          t.trace = s.trace ++ (if s.params.presentPolicy = .onCollision then [.present] else [])) ∨
        (¬ s.collides x y n ∧ t.getV flagReg = 0 ∧ t.trace = s.trace)) ∧
      (∀ k, k ≠ flagReg → t.getV k = s.getV k) ∧ t.pc = s.pc + 2 ∧
      t = { s with v := t.v, fb := t.fb, trace := t.trace, pc := t.pc } ∧ sameBytes s t

/-- R200: drawing the same sprite twice restores the framebuffer; over unset pixels the first drawing gives `VF = 0`
and the second `VF = 1`. Not claimed for `x` or `y` = 15, as R200 says. -/
def Obligations.DrawingTwiceRestores : Prop := ∀ (x y : Reg) (n : Nibble) (s : State),
  x ≠ flagReg → y ≠ flagReg → n = 0 ∨ s.i.toNat + n.toNat ≤ 0x1000 →
  ∃ t u, exec (.drw x y n) s = .next t ∧ exec (.drw x y n) t = .next u ∧ u.fb = s.fb ∧
    ((∃ col row, s.spriteCovers x y n col row) → ¬ s.collides x y n → t.getV flagReg = 0 ∧ u.getV flagReg = 1)

/-- R210, R211 for a key 0 to 15: one sample, the two skips complementary. Which of the two skips on "pressed" is the
spec's reading of the mnemonics (K3). That samples come from a list in `env`, which counts them, is the model's
rendering of the free input, log entry 7. -/
def Obligations.KeySkipsFollowTheKey : Prop :=
  encodesAs 0xF0FF 0xE09E (fun w => .skp (xOf w)) ∧ encodesAs 0xF0FF 0xE0A1 (fun w => .sknp (xOf w)) ∧
  ∀ (x : Reg) (s : State), (s.getV x).toNat ≤ 15 →
    ∃ t u, exec (.skp x) s = .next t ∧ exec (.sknp x) s = .next u ∧
      t.pc = s.pc + (if s.keyPressed (s.getV x).toNat = true then 4 else 2) ∧
      u.pc = s.pc + (if s.keyPressed (s.getV x).toNat = true then 2 else 4) ∧
      (∀ ks kss, s.env.keysIn = ks :: kss → s.keyPressed (s.getV x).toNat = ks.getLsbD (s.getV x).toNat) ∧
      t.env = { s.env with keysIn := s.env.keysIn.tail, keySamples := s.env.keySamples + 1 } ∧ u.env = t.env ∧
      t = { s with pc := t.pc, env := t.env } ∧ u = { s with pc := u.pc, env := u.env } ∧
      sameBytes s t ∧ sameBytes s u

/-! ## Timers, address register, memory -/

/-- R220, R221, R222: the handlers, on the state whose timers have counted down. -/
def Obligations.TimerRegistersMove : Prop :=
  encodesAs 0xF0FF 0xF007 (fun w => .ldVxDt (xOf w)) ∧ encodesAs 0xF0FF 0xF015 (fun w => .ldDtVx (xOf w)) ∧
  encodesAs 0xF0FF 0xF018 (fun w => .ldStVx (xOf w)) ∧
  ∀ (x : Reg) (s : State),
    (∃ t, exec (.ldVxDt x) s = .next t ∧ t.getV x = s.dt ∧ t.pc = s.pc + 2 ∧ onlyReg x s t) ∧
    (∃ t, exec (.ldDtVx x) s = .next t ∧ t.dt = s.getV x ∧ t.pc = s.pc + 2 ∧
      t = { s with dt := t.dt, pc := t.pc } ∧ sameBytes s t) ∧
    ∃ t, exec (.ldStVx x) s = .next t ∧ t.st = s.getV x ∧ t.pc = s.pc + 2 ∧
      t = { s with st := t.st, pc := t.pc } ∧ sameBytes s t

/-- R230: the 16-bit sum, no flag, no 12-bit wrap. -/
def Obligations.AddIAddsRegister : Prop :=
  encodesAs 0xF0FF 0xF01E (fun w => .addI (xOf w)) ∧
  ∀ (x : Reg) (s : State), ∃ t, exec (.addI x) s = .next t ∧
    t.i.toNat = (s.i.toNat + (s.getV x).toNat) % 65536 ∧ t.pc = s.pc + 2 ∧
    t = { s with i := t.i, pc := t.pc } ∧ sameBytes s t

/-- R231: five times the whole byte; that a value above 15 is not masked is the spec's decision D16. -/
def Obligations.LdFPointsAtGlyph : Prop :=
  encodesAs 0xF0FF 0xF029 (fun w => .ldF (xOf w)) ∧
  ∀ (x : Reg) (s : State), ∃ t, exec (.ldF x) s = .next t ∧ t.i.toNat = 5 * (s.getV x).toNat ∧ t.pc = s.pc + 2 ∧
    t = { s with i := t.i, pc := t.pc } ∧ sameBytes s t

/-- R232 inside memory: hundreds, tens and ones at `i`, `i + 1`, `i + 2`, nothing else stored, `i` unchanged. -/
def Obligations.LdBStoresDecimalDigits : Prop :=
  encodesAs 0xF0FF 0xF033 (fun w => .ldB (xOf w)) ∧
  ∀ (x : Reg) (s : State), s.dataAddr 0 + 2 ≤ 0xFFF → ∃ t, exec (.ldB x) s = .next t ∧
    (Memory.read t.mem (s.dataAddr 0)).toNat = (s.getV x).toNat / 100 ∧
    (Memory.read t.mem (s.dataAddr 1)).toNat = (s.getV x).toNat / 10 % 10 ∧
    (Memory.read t.mem (s.dataAddr 2)).toNat = (s.getV x).toNat % 10 ∧
    t.pc = s.pc + 2 ∧ t = { s with mem := t.mem, pc := t.pc } ∧ sameBytesOutside (s.dataAddr 0) 3 s t

/-- R233 inside memory: `v[k]` at `i + k` for `k` up to `x`, nothing else stored, `i` unchanged. -/
def Obligations.StoreRegsWritesBlock : Prop :=
  encodesAs 0xF0FF 0xF055 (fun w => .storeRegs (xOf w)) ∧
  ∀ (x : Reg) (s : State), s.dataAddr x.toNat ≤ 0xFFF → ∃ t, exec (.storeRegs x) s = .next t ∧
    (∀ k : Reg, k.toNat ≤ x.toNat → Memory.read t.mem (s.dataAddr k.toNat) = s.getV k) ∧
    t.pc = s.pc + 2 ∧ t = { s with mem := t.mem, pc := t.pc } ∧ sameBytesOutside (s.dataAddr 0) (x.toNat + 1) s t

/-- R234 inside memory: `v[k]` from `i + k` for `k` up to `x`, the registers above untouched, `i` unchanged. -/
def Obligations.LoadRegsReadsBlock : Prop :=
  encodesAs 0xF0FF 0xF065 (fun w => .loadRegs (xOf w)) ∧
  ∀ (x : Reg) (s : State), s.dataAddr x.toNat ≤ 0xFFF → ∃ t, exec (.loadRegs x) s = .next t ∧
    (∀ k : Reg, k.toNat ≤ x.toNat → t.getV k = Memory.read s.mem (s.dataAddr k.toNat)) ∧
    (∀ k : Reg, x.toNat < k.toNat → t.getV k = s.getV k) ∧
    t.pc = s.pc + 2 ∧ t = { s with v := t.v, pc := t.pc } ∧ sameBytes s t

/-- R234: `LD [I],Vx` then `LD Vx,[I]` gives the registers back, whatever they were set to in between. -/
def Obligations.StoreThenLoadRoundTrips : Prop := ∀ (x : Reg) (s : State) (rs : Vector Byte 16),
  s.dataAddr x.toNat ≤ 0xFFF →
  ∃ t u, exec (.storeRegs x) s = .next t ∧ exec (.loadRegs x) { t with v := rs } = .next u ∧
    ∀ k : Reg, k.toNat ≤ x.toNat → u.getV k = s.getV k
end

