-- ==== Sys2Proof/Laws/Memory.lean ====
section
/-! SUPPORT. Memory: what a read sees after a write, and that every operation keeps the canonical form. -/

namespace Sys2Proof.Machine

theorem Memory.read_drop_same (m : Memory) (a : Nat) : Memory.read (Memory.drop m a) a = resetByte a := by
  induction m with
  | nil => rfl
  | cons c m ih =>
    obtain ⟨k, b⟩ := c
    by_cases h : k = a
    · simpa [Memory.drop, h] using ih
    · simpa [Memory.drop, h, Memory.read, Ne.symm h] using ih

theorem Memory.read_drop_ne (m : Memory) {a c : Nat} (h : c ≠ a) :
    Memory.read (Memory.drop m a) c = Memory.read m c := by
  induction m with
  | nil => rfl
  | cons e m ih =>
    obtain ⟨k, b⟩ := e
    by_cases hk : k = a
    · subst hk
      simpa [Memory.drop, Memory.read, h] using ih
    · simp only [Memory.drop, ne_eq, bne_iff_ne, hk, not_false_eq_true, List.filter_cons_of_pos, Memory.read] at ih ⊢
      split
      · rfl
      · exact ih

theorem Memory.read_put_same (m : Memory) (a : Nat) (b : Byte) : Memory.read (Memory.put m a b) a = b := by
  induction m with
  | nil => simp [Memory.put, Memory.read]
  | cons e m ih =>
    obtain ⟨k, c⟩ := e
    simp only [Memory.put]
    split
    · simp [Memory.read]
    · split
      · simp [Memory.read]
      · next h => simp [Memory.read, h, ih]

theorem Memory.read_put_ne (m : Memory) {a c : Nat} (b : Byte) (h : c ≠ a) :
    Memory.read (Memory.put m a b) c = Memory.read m c := by
  induction m with
  | nil => simp [Memory.put, Memory.read, h]
  | cons e m ih =>
    obtain ⟨k, d⟩ := e
    simp only [Memory.put]
    split
    · simp [Memory.read, h]
    · split
      · next hk => subst hk; simp [Memory.read, h]
      · simp [Memory.read, ih]

/-- A read after a write to the same address gives the byte written. -/
@[simp] theorem Memory.read_write_same (m : Memory) (a : Nat) (b : Byte) :
    Memory.read (Memory.write m a b) a = b := by
  unfold Memory.write
  split
  · next h => rw [Memory.read_drop_same, h]
  · exact Memory.read_put_same m a b

/-- A write leaves every other address alone. -/
theorem Memory.read_write_ne (m : Memory) {a c : Nat} (b : Byte) (h : c ≠ a) :
    Memory.read (Memory.write m a b) c = Memory.read m c := by
  unfold Memory.write
  split
  · exact Memory.read_drop_ne m h
  · exact Memory.read_put_ne m b h

/-- A block write leaves the addresses outside the block alone. -/
theorem Memory.read_writeBytes_outside (bs : List Byte) (m : Memory) {a c : Nat} (h : c < a ∨ a + bs.length ≤ c) :
    Memory.read (Memory.writeBytes m a bs) c = Memory.read m c := by
  induction bs generalizing m a with
  | nil => rfl
  | cons b bs ih =>
    simp only [List.length_cons] at h
    rw [Memory.writeBytes, ih _ (by omega), Memory.read_write_ne _ _ (by omega)]

/-- A read inside a block just written gives the block's byte. -/
theorem Memory.read_writeBytes_inside (bs : List Byte) (m : Memory) (a k : Nat) (h : k < bs.length) :
    Memory.read (Memory.writeBytes m a bs) (a + k) = bs[k] := by
  induction bs generalizing m a k with
  | nil => simp at h
  | cons b bs ih =>
    rw [Memory.writeBytes]
    cases k with
    | zero => rw [Memory.read_writeBytes_outside _ _ (by omega)]; simp
    | succ k =>
      have := ih (Memory.write m a b) (a + 1) k (by simpa using h)
      rw [show a + (k + 1) = a + 1 + k by omega, this]; simp

@[simp] theorem Memory.length_readBytes (m : Memory) (a n : Nat) : (Memory.readBytes m a n).length = n := by
  induction n generalizing a with
  | zero => rfl
  | succ n ih => simp [Memory.readBytes, ih]

/-- Entry `k` of a block read is the byte at `a + k`. -/
theorem Memory.getElem_readBytes (m : Memory) (a n k : Nat) (h : k < (Memory.readBytes m a n).length) :
    (Memory.readBytes m a n)[k] = Memory.read m (a + k) := by
  induction n generalizing a k with
  | zero => simp [Memory.readBytes] at h
  | succ n ih =>
    cases k with
    | zero => simp [Memory.readBytes]
    | succ k => simp [Memory.readBytes, ih, show a + 1 + k = a + (k + 1) by omega]

theorem Memory.mem_put {m : Memory} {a : Nat} {b : Byte} {c : Host.Cell} (h : c ∈ Memory.put m a b) :
    c = (a, b) ∨ c ∈ m := by
  induction m with
  | nil => simpa [Memory.put] using h
  | cons e m ih =>
    obtain ⟨k, d⟩ := e
    simp only [Memory.put] at h
    split at h
    · simpa using h
    · split at h
      · rcases List.mem_cons.1 h with h | h
        · exact .inl h
        · exact .inr (List.mem_cons_of_mem _ h)
      · rcases List.mem_cons.1 h with h | h
        · exact .inr (h ▸ List.mem_cons_self)
        · exact (ih h).imp_right (List.mem_cons_of_mem _)

theorem Memory.pairwise_put {m : Memory} (a : Nat) (b : Byte) (h : m.Pairwise (fun c d => c.1 < d.1)) :
    (Memory.put m a b).Pairwise (fun c d => c.1 < d.1) := by
  induction m with
  | nil => simp [Memory.put]
  | cons e m ih =>
    obtain ⟨k, d⟩ := e
    obtain ⟨hk, hm⟩ := List.pairwise_cons.1 h
    simp only [Memory.put]
    split
    · next hlt =>
      refine List.pairwise_cons.2 ⟨fun c hc => ?_, h⟩
      rcases List.mem_cons.1 hc with rfl | hc
      · exact hlt
      · exact Nat.lt_trans hlt (hk c hc)
    · split
      · next heq => subst heq; exact List.pairwise_cons.2 ⟨hk, hm⟩
      · refine List.pairwise_cons.2 ⟨fun c hc => ?_, ih hm⟩
        rcases Memory.mem_put hc with rfl | hc
        · simp only; omega
        · exact hk c hc

/-- A write inside memory keeps the canonical form. -/
theorem Memory.wf_write {m : Memory} {a : Nat} (b : Byte) (h : Memory.wf m) (ha : a < memSize) :
    Memory.wf (Memory.write m a b) := by
  unfold Memory.write
  split
  · exact ⟨h.1.filter _, fun c hc => h.2 c (List.mem_of_mem_filter hc)⟩
  · next hb =>
    refine ⟨Memory.pairwise_put a b h.1, fun c hc => ?_⟩
    rcases Memory.mem_put hc with rfl | hc
    · exact ⟨ha, hb⟩
    · exact h.2 c hc

/-- A block write inside memory keeps the canonical form. -/
theorem Memory.wf_writeBytes (bs : List Byte) {m : Memory} {a : Nat} (h : Memory.wf m)
    (ha : bs = [] ∨ a + bs.length ≤ memSize) : Memory.wf (Memory.writeBytes m a bs) := by
  induction bs generalizing m a with
  | nil => exact h
  | cons b bs ih =>
    simp only [reduceCtorEq, List.length_cons, false_or] at ha
    exact ih (Memory.wf_write b h (by omega)) (by omega)

/-- Reset memory is in the canonical form. -/
theorem Memory.wf_nil : Memory.wf [] := by simp [Memory.wf]

end Sys2Proof.Machine
end

