-- ==== Sys2Proof/Laws/State.lean ====
section
/-! SUPPORT. What each state update does to each field: one lemma a field and update, so that no later proof unfolds a
record update; and, for the updates that leave the register file alone, the same for `getV`. -/

namespace Sys2Proof.Machine

variable (s : State)

/-! `raise` -/
@[simp] theorem State.raise_v (c : FaultCause) : (s.raise c).v = s.v := rfl
@[simp] theorem State.raise_pc (c : FaultCause) : (s.raise c).pc = s.pc := rfl
@[simp] theorem State.raise_i (c : FaultCause) : (s.raise c).i = s.i := rfl
@[simp] theorem State.raise_sp (c : FaultCause) : (s.raise c).sp = s.sp := rfl
@[simp] theorem State.raise_stack (c : FaultCause) : (s.raise c).stack = s.stack := rfl
@[simp] theorem State.raise_dt (c : FaultCause) : (s.raise c).dt = s.dt := rfl
@[simp] theorem State.raise_st (c : FaultCause) : (s.raise c).st = s.st := rfl
@[simp] theorem State.raise_mem (c : FaultCause) : (s.raise c).mem = s.mem := rfl
@[simp] theorem State.raise_fb (c : FaultCause) : (s.raise c).fb = s.fb := rfl
@[simp] theorem State.raise_status (c : FaultCause) : (s.raise c).status = .faulted := rfl
@[simp] theorem State.raise_fault (c : FaultCause) : (s.raise c).fault = some { cause := c, pc := s.pc } := rfl
@[simp] theorem State.raise_waitX (c : FaultCause) : (s.raise c).waitX = s.waitX := rfl
@[simp] theorem State.raise_trace (c : FaultCause) : (s.raise c).trace = s.trace := rfl
@[simp] theorem State.raise_params (c : FaultCause) : (s.raise c).params = s.params := rfl
@[simp] theorem State.raise_env (c : FaultCause) : (s.raise c).env = s.env := rfl
@[simp] theorem State.getV_raise (c : FaultCause) (j : Reg) : (s.raise c).getV j = s.getV j := rfl

/-! `setV` -/
@[simp] theorem State.setV_v (k : Reg) (b : Byte) : (s.setV k b).v = s.v.set k.toNat b k.isLt := rfl
@[simp] theorem State.setV_pc (k : Reg) (b : Byte) : (s.setV k b).pc = s.pc := rfl
@[simp] theorem State.setV_i (k : Reg) (b : Byte) : (s.setV k b).i = s.i := rfl
@[simp] theorem State.setV_sp (k : Reg) (b : Byte) : (s.setV k b).sp = s.sp := rfl
@[simp] theorem State.setV_stack (k : Reg) (b : Byte) : (s.setV k b).stack = s.stack := rfl
@[simp] theorem State.setV_dt (k : Reg) (b : Byte) : (s.setV k b).dt = s.dt := rfl
@[simp] theorem State.setV_st (k : Reg) (b : Byte) : (s.setV k b).st = s.st := rfl
@[simp] theorem State.setV_mem (k : Reg) (b : Byte) : (s.setV k b).mem = s.mem := rfl
@[simp] theorem State.setV_fb (k : Reg) (b : Byte) : (s.setV k b).fb = s.fb := rfl
@[simp] theorem State.setV_status (k : Reg) (b : Byte) : (s.setV k b).status = s.status := rfl
@[simp] theorem State.setV_fault (k : Reg) (b : Byte) : (s.setV k b).fault = s.fault := rfl
@[simp] theorem State.setV_waitX (k : Reg) (b : Byte) : (s.setV k b).waitX = s.waitX := rfl
@[simp] theorem State.setV_trace (k : Reg) (b : Byte) : (s.setV k b).trace = s.trace := rfl
@[simp] theorem State.setV_params (k : Reg) (b : Byte) : (s.setV k b).params = s.params := rfl
@[simp] theorem State.setV_env (k : Reg) (b : Byte) : (s.setV k b).env = s.env := rfl

/-! `setBlock` -/
@[simp] theorem State.setBlock_pc (x : Reg) (bs : List Byte) : (s.setBlock x bs).pc = s.pc := rfl
@[simp] theorem State.setBlock_i (x : Reg) (bs : List Byte) : (s.setBlock x bs).i = s.i := rfl
@[simp] theorem State.setBlock_sp (x : Reg) (bs : List Byte) : (s.setBlock x bs).sp = s.sp := rfl
@[simp] theorem State.setBlock_stack (x : Reg) (bs : List Byte) : (s.setBlock x bs).stack = s.stack := rfl
@[simp] theorem State.setBlock_dt (x : Reg) (bs : List Byte) : (s.setBlock x bs).dt = s.dt := rfl
@[simp] theorem State.setBlock_st (x : Reg) (bs : List Byte) : (s.setBlock x bs).st = s.st := rfl
@[simp] theorem State.setBlock_mem (x : Reg) (bs : List Byte) : (s.setBlock x bs).mem = s.mem := rfl
@[simp] theorem State.setBlock_fb (x : Reg) (bs : List Byte) : (s.setBlock x bs).fb = s.fb := rfl
@[simp] theorem State.setBlock_status (x : Reg) (bs : List Byte) : (s.setBlock x bs).status = s.status := rfl
@[simp] theorem State.setBlock_fault (x : Reg) (bs : List Byte) : (s.setBlock x bs).fault = s.fault := rfl
@[simp] theorem State.setBlock_waitX (x : Reg) (bs : List Byte) : (s.setBlock x bs).waitX = s.waitX := rfl
@[simp] theorem State.setBlock_trace (x : Reg) (bs : List Byte) : (s.setBlock x bs).trace = s.trace := rfl
@[simp] theorem State.setBlock_params (x : Reg) (bs : List Byte) : (s.setBlock x bs).params = s.params := rfl
@[simp] theorem State.setBlock_env (x : Reg) (bs : List Byte) : (s.setBlock x bs).env = s.env := rfl

/-! `advance` -/
@[simp] theorem State.advance_v : (s.advance).v = s.v := rfl
@[simp] theorem State.advance_pc : (s.advance).pc = s.pc + 2 := rfl
@[simp] theorem State.advance_i : (s.advance).i = s.i := rfl
@[simp] theorem State.advance_sp : (s.advance).sp = s.sp := rfl
@[simp] theorem State.advance_stack : (s.advance).stack = s.stack := rfl
@[simp] theorem State.advance_dt : (s.advance).dt = s.dt := rfl
@[simp] theorem State.advance_st : (s.advance).st = s.st := rfl
@[simp] theorem State.advance_mem : (s.advance).mem = s.mem := rfl
@[simp] theorem State.advance_fb : (s.advance).fb = s.fb := rfl
@[simp] theorem State.advance_status : (s.advance).status = s.status := rfl
@[simp] theorem State.advance_fault : (s.advance).fault = s.fault := rfl
@[simp] theorem State.advance_waitX : (s.advance).waitX = s.waitX := rfl
@[simp] theorem State.advance_trace : (s.advance).trace = s.trace := rfl
@[simp] theorem State.advance_params : (s.advance).params = s.params := rfl
@[simp] theorem State.advance_env : (s.advance).env = s.env := rfl
@[simp] theorem State.getV_advance (j : Reg) : (s.advance).getV j = s.getV j := rfl

/-! `skipIf` -/
@[simp] theorem State.skipIf_v (c : Bool) : (s.skipIf c).v = s.v := rfl
@[simp] theorem State.skipIf_pc (c : Bool) : (s.skipIf c).pc = s.pc + (if c then 4 else 2) := rfl
@[simp] theorem State.skipIf_i (c : Bool) : (s.skipIf c).i = s.i := rfl
@[simp] theorem State.skipIf_sp (c : Bool) : (s.skipIf c).sp = s.sp := rfl
@[simp] theorem State.skipIf_stack (c : Bool) : (s.skipIf c).stack = s.stack := rfl
@[simp] theorem State.skipIf_dt (c : Bool) : (s.skipIf c).dt = s.dt := rfl
@[simp] theorem State.skipIf_st (c : Bool) : (s.skipIf c).st = s.st := rfl
@[simp] theorem State.skipIf_mem (c : Bool) : (s.skipIf c).mem = s.mem := rfl
@[simp] theorem State.skipIf_fb (c : Bool) : (s.skipIf c).fb = s.fb := rfl
@[simp] theorem State.skipIf_status (c : Bool) : (s.skipIf c).status = s.status := rfl
@[simp] theorem State.skipIf_fault (c : Bool) : (s.skipIf c).fault = s.fault := rfl
@[simp] theorem State.skipIf_waitX (c : Bool) : (s.skipIf c).waitX = s.waitX := rfl
@[simp] theorem State.skipIf_trace (c : Bool) : (s.skipIf c).trace = s.trace := rfl
@[simp] theorem State.skipIf_params (c : Bool) : (s.skipIf c).params = s.params := rfl
@[simp] theorem State.skipIf_env (c : Bool) : (s.skipIf c).env = s.env := rfl
@[simp] theorem State.getV_skipIf (c : Bool) (j : Reg) : (s.skipIf c).getV j = s.getV j := rfl

/-! `jump` -/
@[simp] theorem State.jump_v (a : Word) : (s.jump a).v = s.v := rfl
@[simp] theorem State.jump_pc (a : Word) : (s.jump a).pc = a := rfl
@[simp] theorem State.jump_i (a : Word) : (s.jump a).i = s.i := rfl
@[simp] theorem State.jump_sp (a : Word) : (s.jump a).sp = s.sp := rfl
@[simp] theorem State.jump_stack (a : Word) : (s.jump a).stack = s.stack := rfl
@[simp] theorem State.jump_dt (a : Word) : (s.jump a).dt = s.dt := rfl
@[simp] theorem State.jump_st (a : Word) : (s.jump a).st = s.st := rfl
@[simp] theorem State.jump_mem (a : Word) : (s.jump a).mem = s.mem := rfl
@[simp] theorem State.jump_fb (a : Word) : (s.jump a).fb = s.fb := rfl
@[simp] theorem State.jump_status (a : Word) : (s.jump a).status = s.status := rfl
@[simp] theorem State.jump_fault (a : Word) : (s.jump a).fault = s.fault := rfl
@[simp] theorem State.jump_waitX (a : Word) : (s.jump a).waitX = s.waitX := rfl
@[simp] theorem State.jump_trace (a : Word) : (s.jump a).trace = s.trace := rfl
@[simp] theorem State.jump_params (a : Word) : (s.jump a).params = s.params := rfl
@[simp] theorem State.jump_env (a : Word) : (s.jump a).env = s.env := rfl
@[simp] theorem State.getV_jump (a : Word) (j : Reg) : (s.jump a).getV j = s.getV j := rfl

/-! `setI` -/
@[simp] theorem State.setI_v (a : Word) : (s.setI a).v = s.v := rfl
@[simp] theorem State.setI_pc (a : Word) : (s.setI a).pc = s.pc := rfl
@[simp] theorem State.setI_i (a : Word) : (s.setI a).i = a := rfl
@[simp] theorem State.setI_sp (a : Word) : (s.setI a).sp = s.sp := rfl
@[simp] theorem State.setI_stack (a : Word) : (s.setI a).stack = s.stack := rfl
@[simp] theorem State.setI_dt (a : Word) : (s.setI a).dt = s.dt := rfl
@[simp] theorem State.setI_st (a : Word) : (s.setI a).st = s.st := rfl
@[simp] theorem State.setI_mem (a : Word) : (s.setI a).mem = s.mem := rfl
@[simp] theorem State.setI_fb (a : Word) : (s.setI a).fb = s.fb := rfl
@[simp] theorem State.setI_status (a : Word) : (s.setI a).status = s.status := rfl
@[simp] theorem State.setI_fault (a : Word) : (s.setI a).fault = s.fault := rfl
@[simp] theorem State.setI_waitX (a : Word) : (s.setI a).waitX = s.waitX := rfl
@[simp] theorem State.setI_trace (a : Word) : (s.setI a).trace = s.trace := rfl
@[simp] theorem State.setI_params (a : Word) : (s.setI a).params = s.params := rfl
@[simp] theorem State.setI_env (a : Word) : (s.setI a).env = s.env := rfl
@[simp] theorem State.getV_setI (a : Word) (j : Reg) : (s.setI a).getV j = s.getV j := rfl

/-! `setDt` -/
@[simp] theorem State.setDt_v (b : Byte) : (s.setDt b).v = s.v := rfl
@[simp] theorem State.setDt_pc (b : Byte) : (s.setDt b).pc = s.pc := rfl
@[simp] theorem State.setDt_i (b : Byte) : (s.setDt b).i = s.i := rfl
@[simp] theorem State.setDt_sp (b : Byte) : (s.setDt b).sp = s.sp := rfl
@[simp] theorem State.setDt_stack (b : Byte) : (s.setDt b).stack = s.stack := rfl
@[simp] theorem State.setDt_dt (b : Byte) : (s.setDt b).dt = b := rfl
@[simp] theorem State.setDt_st (b : Byte) : (s.setDt b).st = s.st := rfl
@[simp] theorem State.setDt_mem (b : Byte) : (s.setDt b).mem = s.mem := rfl
@[simp] theorem State.setDt_fb (b : Byte) : (s.setDt b).fb = s.fb := rfl
@[simp] theorem State.setDt_status (b : Byte) : (s.setDt b).status = s.status := rfl
@[simp] theorem State.setDt_fault (b : Byte) : (s.setDt b).fault = s.fault := rfl
@[simp] theorem State.setDt_waitX (b : Byte) : (s.setDt b).waitX = s.waitX := rfl
@[simp] theorem State.setDt_trace (b : Byte) : (s.setDt b).trace = s.trace := rfl
@[simp] theorem State.setDt_params (b : Byte) : (s.setDt b).params = s.params := rfl
@[simp] theorem State.setDt_env (b : Byte) : (s.setDt b).env = s.env := rfl
@[simp] theorem State.getV_setDt (b : Byte) (j : Reg) : (s.setDt b).getV j = s.getV j := rfl

/-! `setSt` -/
@[simp] theorem State.setSt_v (b : Byte) : (s.setSt b).v = s.v := rfl
@[simp] theorem State.setSt_pc (b : Byte) : (s.setSt b).pc = s.pc := rfl
@[simp] theorem State.setSt_i (b : Byte) : (s.setSt b).i = s.i := rfl
@[simp] theorem State.setSt_sp (b : Byte) : (s.setSt b).sp = s.sp := rfl
@[simp] theorem State.setSt_stack (b : Byte) : (s.setSt b).stack = s.stack := rfl
@[simp] theorem State.setSt_dt (b : Byte) : (s.setSt b).dt = s.dt := rfl
@[simp] theorem State.setSt_st (b : Byte) : (s.setSt b).st = b := rfl
@[simp] theorem State.setSt_mem (b : Byte) : (s.setSt b).mem = s.mem := rfl
@[simp] theorem State.setSt_fb (b : Byte) : (s.setSt b).fb = s.fb := rfl
@[simp] theorem State.setSt_status (b : Byte) : (s.setSt b).status = s.status := rfl
@[simp] theorem State.setSt_fault (b : Byte) : (s.setSt b).fault = s.fault := rfl
@[simp] theorem State.setSt_waitX (b : Byte) : (s.setSt b).waitX = s.waitX := rfl
@[simp] theorem State.setSt_trace (b : Byte) : (s.setSt b).trace = s.trace := rfl
@[simp] theorem State.setSt_params (b : Byte) : (s.setSt b).params = s.params := rfl
@[simp] theorem State.setSt_env (b : Byte) : (s.setSt b).env = s.env := rfl
@[simp] theorem State.getV_setSt (b : Byte) (j : Reg) : (s.setSt b).getV j = s.getV j := rfl

/-! `store` -/
@[simp] theorem State.store_v (a : Nat) (bs : List Byte) : (s.store a bs).v = s.v := rfl
@[simp] theorem State.store_pc (a : Nat) (bs : List Byte) : (s.store a bs).pc = s.pc := rfl
@[simp] theorem State.store_i (a : Nat) (bs : List Byte) : (s.store a bs).i = s.i := rfl
@[simp] theorem State.store_sp (a : Nat) (bs : List Byte) : (s.store a bs).sp = s.sp := rfl
@[simp] theorem State.store_stack (a : Nat) (bs : List Byte) : (s.store a bs).stack = s.stack := rfl
@[simp] theorem State.store_dt (a : Nat) (bs : List Byte) : (s.store a bs).dt = s.dt := rfl
@[simp] theorem State.store_st (a : Nat) (bs : List Byte) : (s.store a bs).st = s.st := rfl
@[simp] theorem State.store_mem (a : Nat) (bs : List Byte) : (s.store a bs).mem = Memory.writeBytes s.mem a bs := rfl
@[simp] theorem State.store_fb (a : Nat) (bs : List Byte) : (s.store a bs).fb = s.fb := rfl
@[simp] theorem State.store_status (a : Nat) (bs : List Byte) : (s.store a bs).status = s.status := rfl
@[simp] theorem State.store_fault (a : Nat) (bs : List Byte) : (s.store a bs).fault = s.fault := rfl
@[simp] theorem State.store_waitX (a : Nat) (bs : List Byte) : (s.store a bs).waitX = s.waitX := rfl
@[simp] theorem State.store_trace (a : Nat) (bs : List Byte) : (s.store a bs).trace = s.trace := rfl
@[simp] theorem State.store_params (a : Nat) (bs : List Byte) : (s.store a bs).params = s.params := rfl
@[simp] theorem State.store_env (a : Nat) (bs : List Byte) : (s.store a bs).env = s.env := rfl
@[simp] theorem State.getV_store (a : Nat) (bs : List Byte) (j : Reg) : (s.store a bs).getV j = s.getV j := rfl

/-! `setStatus` -/
@[simp] theorem State.setStatus_v (r : Status) : (s.setStatus r).v = s.v := rfl
@[simp] theorem State.setStatus_pc (r : Status) : (s.setStatus r).pc = s.pc := rfl
@[simp] theorem State.setStatus_i (r : Status) : (s.setStatus r).i = s.i := rfl
@[simp] theorem State.setStatus_sp (r : Status) : (s.setStatus r).sp = s.sp := rfl
@[simp] theorem State.setStatus_stack (r : Status) : (s.setStatus r).stack = s.stack := rfl
@[simp] theorem State.setStatus_dt (r : Status) : (s.setStatus r).dt = s.dt := rfl
@[simp] theorem State.setStatus_st (r : Status) : (s.setStatus r).st = s.st := rfl
@[simp] theorem State.setStatus_mem (r : Status) : (s.setStatus r).mem = s.mem := rfl
@[simp] theorem State.setStatus_fb (r : Status) : (s.setStatus r).fb = s.fb := rfl
@[simp] theorem State.setStatus_status (r : Status) : (s.setStatus r).status = r := rfl
@[simp] theorem State.setStatus_fault (r : Status) : (s.setStatus r).fault = s.fault := rfl
@[simp] theorem State.setStatus_waitX (r : Status) : (s.setStatus r).waitX = s.waitX := rfl
@[simp] theorem State.setStatus_trace (r : Status) : (s.setStatus r).trace = s.trace := rfl
@[simp] theorem State.setStatus_params (r : Status) : (s.setStatus r).params = s.params := rfl
@[simp] theorem State.setStatus_env (r : Status) : (s.setStatus r).env = s.env := rfl
@[simp] theorem State.getV_setStatus (r : Status) (j : Reg) : (s.setStatus r).getV j = s.getV j := rfl

/-! `emit` -/
@[simp] theorem State.emit_v (e : OutEvent) : (s.emit e).v = s.v := rfl
@[simp] theorem State.emit_pc (e : OutEvent) : (s.emit e).pc = s.pc := rfl
@[simp] theorem State.emit_i (e : OutEvent) : (s.emit e).i = s.i := rfl
@[simp] theorem State.emit_sp (e : OutEvent) : (s.emit e).sp = s.sp := rfl
@[simp] theorem State.emit_stack (e : OutEvent) : (s.emit e).stack = s.stack := rfl
@[simp] theorem State.emit_dt (e : OutEvent) : (s.emit e).dt = s.dt := rfl
@[simp] theorem State.emit_st (e : OutEvent) : (s.emit e).st = s.st := rfl
@[simp] theorem State.emit_mem (e : OutEvent) : (s.emit e).mem = s.mem := rfl
@[simp] theorem State.emit_fb (e : OutEvent) : (s.emit e).fb = s.fb := rfl
@[simp] theorem State.emit_status (e : OutEvent) : (s.emit e).status = s.status := rfl
@[simp] theorem State.emit_fault (e : OutEvent) : (s.emit e).fault = s.fault := rfl
@[simp] theorem State.emit_waitX (e : OutEvent) : (s.emit e).waitX = s.waitX := rfl
@[simp] theorem State.emit_trace (e : OutEvent) : (s.emit e).trace = s.trace ++ [e] := rfl
@[simp] theorem State.emit_params (e : OutEvent) : (s.emit e).params = s.params := rfl
@[simp] theorem State.emit_env (e : OutEvent) : (s.emit e).env = s.env := rfl
@[simp] theorem State.getV_emit (e : OutEvent) (j : Reg) : (s.emit e).getV j = s.getV j := rfl

/-! `push` -/
@[simp] theorem State.push_v (a : Word) (h : s.sp.toNat < 15) : (s.push a h).v = s.v := rfl
@[simp] theorem State.push_pc (a : Word) (h : s.sp.toNat < 15) : (s.push a h).pc = s.pc := rfl
@[simp] theorem State.push_i (a : Word) (h : s.sp.toNat < 15) : (s.push a h).i = s.i := rfl
@[simp] theorem State.push_sp (a : Word) (h : s.sp.toNat < 15) : (s.push a h).sp = s.sp + 1 := rfl
@[simp] theorem State.push_stack (a : Word) (h : s.sp.toNat < 15) : (s.push a h).stack = s.stack.set (s.sp.toNat + 1) a (by omega) := rfl
@[simp] theorem State.push_dt (a : Word) (h : s.sp.toNat < 15) : (s.push a h).dt = s.dt := rfl
@[simp] theorem State.push_st (a : Word) (h : s.sp.toNat < 15) : (s.push a h).st = s.st := rfl
@[simp] theorem State.push_mem (a : Word) (h : s.sp.toNat < 15) : (s.push a h).mem = s.mem := rfl
@[simp] theorem State.push_fb (a : Word) (h : s.sp.toNat < 15) : (s.push a h).fb = s.fb := rfl
@[simp] theorem State.push_status (a : Word) (h : s.sp.toNat < 15) : (s.push a h).status = s.status := rfl
@[simp] theorem State.push_fault (a : Word) (h : s.sp.toNat < 15) : (s.push a h).fault = s.fault := rfl
@[simp] theorem State.push_waitX (a : Word) (h : s.sp.toNat < 15) : (s.push a h).waitX = s.waitX := rfl
@[simp] theorem State.push_trace (a : Word) (h : s.sp.toNat < 15) : (s.push a h).trace = s.trace := rfl
@[simp] theorem State.push_params (a : Word) (h : s.sp.toNat < 15) : (s.push a h).params = s.params := rfl
@[simp] theorem State.push_env (a : Word) (h : s.sp.toNat < 15) : (s.push a h).env = s.env := rfl
@[simp] theorem State.getV_push (a : Word) (h : s.sp.toNat < 15) (j : Reg) : (s.push a h).getV j = s.getV j := rfl

/-! `pop` -/
@[simp] theorem State.pop_v : (s.pop).v = s.v := rfl
@[simp] theorem State.pop_pc : (s.pop).pc = s.pc := rfl
@[simp] theorem State.pop_i : (s.pop).i = s.i := rfl
@[simp] theorem State.pop_sp : (s.pop).sp = s.sp - 1 := rfl
@[simp] theorem State.pop_stack : (s.pop).stack = s.stack := rfl
@[simp] theorem State.pop_dt : (s.pop).dt = s.dt := rfl
@[simp] theorem State.pop_st : (s.pop).st = s.st := rfl
@[simp] theorem State.pop_mem : (s.pop).mem = s.mem := rfl
@[simp] theorem State.pop_fb : (s.pop).fb = s.fb := rfl
@[simp] theorem State.pop_status : (s.pop).status = s.status := rfl
@[simp] theorem State.pop_fault : (s.pop).fault = s.fault := rfl
@[simp] theorem State.pop_waitX : (s.pop).waitX = s.waitX := rfl
@[simp] theorem State.pop_trace : (s.pop).trace = s.trace := rfl
@[simp] theorem State.pop_params : (s.pop).params = s.params := rfl
@[simp] theorem State.pop_env : (s.pop).env = s.env := rfl
@[simp] theorem State.getV_pop (j : Reg) : (s.pop).getV j = s.getV j := rfl

/-! `countDown` -/
@[simp] theorem State.countDown_v : (s.countDown).v = s.v := rfl
@[simp] theorem State.countDown_pc : (s.countDown).pc = s.pc := rfl
@[simp] theorem State.countDown_i : (s.countDown).i = s.i := rfl
@[simp] theorem State.countDown_sp : (s.countDown).sp = s.sp := rfl
@[simp] theorem State.countDown_stack : (s.countDown).stack = s.stack := rfl
@[simp] theorem State.countDown_dt : (s.countDown).dt = countDownByte s.dt := rfl
@[simp] theorem State.countDown_st : (s.countDown).st = countDownByte s.st := rfl
@[simp] theorem State.countDown_mem : (s.countDown).mem = s.mem := rfl
@[simp] theorem State.countDown_fb : (s.countDown).fb = s.fb := rfl
@[simp] theorem State.countDown_status : (s.countDown).status = s.status := rfl
@[simp] theorem State.countDown_fault : (s.countDown).fault = s.fault := rfl
@[simp] theorem State.countDown_waitX : (s.countDown).waitX = s.waitX := rfl
@[simp] theorem State.countDown_trace : (s.countDown).trace = s.trace := rfl
@[simp] theorem State.countDown_params : (s.countDown).params = s.params := rfl
@[simp] theorem State.countDown_env : (s.countDown).env = s.env := rfl
@[simp] theorem State.getV_countDown (j : Reg) : (s.countDown).getV j = s.getV j := rfl

/-! `setFb` -/
@[simp] theorem State.setFb_v (f : Framebuffer) : (s.setFb f).v = s.v := rfl
@[simp] theorem State.setFb_pc (f : Framebuffer) : (s.setFb f).pc = s.pc := rfl
@[simp] theorem State.setFb_i (f : Framebuffer) : (s.setFb f).i = s.i := rfl
@[simp] theorem State.setFb_sp (f : Framebuffer) : (s.setFb f).sp = s.sp := rfl
@[simp] theorem State.setFb_stack (f : Framebuffer) : (s.setFb f).stack = s.stack := rfl
@[simp] theorem State.setFb_dt (f : Framebuffer) : (s.setFb f).dt = s.dt := rfl
@[simp] theorem State.setFb_st (f : Framebuffer) : (s.setFb f).st = s.st := rfl
@[simp] theorem State.setFb_mem (f : Framebuffer) : (s.setFb f).mem = s.mem := rfl
@[simp] theorem State.setFb_fb (f : Framebuffer) : (s.setFb f).fb = f := rfl
@[simp] theorem State.setFb_status (f : Framebuffer) : (s.setFb f).status = s.status := rfl
@[simp] theorem State.setFb_fault (f : Framebuffer) : (s.setFb f).fault = s.fault := rfl
@[simp] theorem State.setFb_waitX (f : Framebuffer) : (s.setFb f).waitX = s.waitX := rfl
@[simp] theorem State.setFb_trace (f : Framebuffer) : (s.setFb f).trace = s.trace := rfl
@[simp] theorem State.setFb_params (f : Framebuffer) : (s.setFb f).params = s.params := rfl
@[simp] theorem State.setFb_env (f : Framebuffer) : (s.setFb f).env = s.env := rfl
@[simp] theorem State.getV_setFb (f : Framebuffer) (j : Reg) : (s.setFb f).getV j = s.getV j := rfl

/-! `takeRand` -/
@[simp] theorem State.takeRand_v : (s.takeRand).v = s.v := rfl
@[simp] theorem State.takeRand_pc : (s.takeRand).pc = s.pc := rfl
@[simp] theorem State.takeRand_i : (s.takeRand).i = s.i := rfl
@[simp] theorem State.takeRand_sp : (s.takeRand).sp = s.sp := rfl
@[simp] theorem State.takeRand_stack : (s.takeRand).stack = s.stack := rfl
@[simp] theorem State.takeRand_dt : (s.takeRand).dt = s.dt := rfl
@[simp] theorem State.takeRand_st : (s.takeRand).st = s.st := rfl
@[simp] theorem State.takeRand_mem : (s.takeRand).mem = s.mem := rfl
@[simp] theorem State.takeRand_fb : (s.takeRand).fb = s.fb := rfl
@[simp] theorem State.takeRand_status : (s.takeRand).status = s.status := rfl
@[simp] theorem State.takeRand_fault : (s.takeRand).fault = s.fault := rfl
@[simp] theorem State.takeRand_waitX : (s.takeRand).waitX = s.waitX := rfl
@[simp] theorem State.takeRand_trace : (s.takeRand).trace = s.trace := rfl
@[simp] theorem State.takeRand_params : (s.takeRand).params = s.params := rfl
@[simp] theorem State.takeRand_env : (s.takeRand).env = { s.env with randIn := s.env.randIn.tail, randDraws := s.env.randDraws + 1 } := rfl
@[simp] theorem State.getV_takeRand (j : Reg) : (s.takeRand).getV j = s.getV j := rfl

/-! `takeKeys` -/
@[simp] theorem State.takeKeys_v : (s.takeKeys).v = s.v := rfl
@[simp] theorem State.takeKeys_pc : (s.takeKeys).pc = s.pc := rfl
@[simp] theorem State.takeKeys_i : (s.takeKeys).i = s.i := rfl
@[simp] theorem State.takeKeys_sp : (s.takeKeys).sp = s.sp := rfl
@[simp] theorem State.takeKeys_stack : (s.takeKeys).stack = s.stack := rfl
@[simp] theorem State.takeKeys_dt : (s.takeKeys).dt = s.dt := rfl
@[simp] theorem State.takeKeys_st : (s.takeKeys).st = s.st := rfl
@[simp] theorem State.takeKeys_mem : (s.takeKeys).mem = s.mem := rfl
@[simp] theorem State.takeKeys_fb : (s.takeKeys).fb = s.fb := rfl
@[simp] theorem State.takeKeys_status : (s.takeKeys).status = s.status := rfl
@[simp] theorem State.takeKeys_fault : (s.takeKeys).fault = s.fault := rfl
@[simp] theorem State.takeKeys_waitX : (s.takeKeys).waitX = s.waitX := rfl
@[simp] theorem State.takeKeys_trace : (s.takeKeys).trace = s.trace := rfl
@[simp] theorem State.takeKeys_params : (s.takeKeys).params = s.params := rfl
@[simp] theorem State.takeKeys_env : (s.takeKeys).env = { s.env with keysIn := s.env.keysIn.tail, keySamples := s.env.keySamples + 1 } := rfl
@[simp] theorem State.getV_takeKeys (j : Reg) : (s.takeKeys).getV j = s.getV j := rfl

/-! `takeEvent` -/
@[simp] theorem State.takeEvent_v : (s.takeEvent).v = s.v := rfl
@[simp] theorem State.takeEvent_pc : (s.takeEvent).pc = s.pc := rfl
@[simp] theorem State.takeEvent_i : (s.takeEvent).i = s.i := rfl
@[simp] theorem State.takeEvent_sp : (s.takeEvent).sp = s.sp := rfl
@[simp] theorem State.takeEvent_stack : (s.takeEvent).stack = s.stack := rfl
@[simp] theorem State.takeEvent_dt : (s.takeEvent).dt = s.dt := rfl
@[simp] theorem State.takeEvent_st : (s.takeEvent).st = s.st := rfl
@[simp] theorem State.takeEvent_mem : (s.takeEvent).mem = s.mem := rfl
@[simp] theorem State.takeEvent_fb : (s.takeEvent).fb = s.fb := rfl
@[simp] theorem State.takeEvent_status : (s.takeEvent).status = s.status := rfl
@[simp] theorem State.takeEvent_fault : (s.takeEvent).fault = s.fault := rfl
@[simp] theorem State.takeEvent_waitX : (s.takeEvent).waitX = s.waitX := rfl
@[simp] theorem State.takeEvent_trace : (s.takeEvent).trace = s.trace := rfl
@[simp] theorem State.takeEvent_params : (s.takeEvent).params = s.params := rfl
@[simp] theorem State.takeEvent_env : (s.takeEvent).env = { s.env with events := s.env.events.tail } := rfl
@[simp] theorem State.getV_takeEvent (j : Reg) : (s.takeEvent).getV j = s.getV j := rfl

/-! `suspend` -/
@[simp] theorem State.suspend_v (x : Reg) : (s.suspend x).v = s.v := rfl
@[simp] theorem State.suspend_pc (x : Reg) : (s.suspend x).pc = s.pc := rfl
@[simp] theorem State.suspend_i (x : Reg) : (s.suspend x).i = s.i := rfl
@[simp] theorem State.suspend_sp (x : Reg) : (s.suspend x).sp = s.sp := rfl
@[simp] theorem State.suspend_stack (x : Reg) : (s.suspend x).stack = s.stack := rfl
@[simp] theorem State.suspend_dt (x : Reg) : (s.suspend x).dt = s.dt := rfl
@[simp] theorem State.suspend_st (x : Reg) : (s.suspend x).st = s.st := rfl
@[simp] theorem State.suspend_mem (x : Reg) : (s.suspend x).mem = s.mem := rfl
@[simp] theorem State.suspend_fb (x : Reg) : (s.suspend x).fb = s.fb := rfl
@[simp] theorem State.suspend_status (x : Reg) : (s.suspend x).status = .waitKey := rfl
@[simp] theorem State.suspend_fault (x : Reg) : (s.suspend x).fault = s.fault := rfl
@[simp] theorem State.suspend_waitX (x : Reg) : (s.suspend x).waitX = x := rfl
@[simp] theorem State.suspend_trace (x : Reg) : (s.suspend x).trace = s.trace := rfl
@[simp] theorem State.suspend_params (x : Reg) : (s.suspend x).params = s.params := rfl
@[simp] theorem State.suspend_env (x : Reg) : (s.suspend x).env = s.env := rfl
@[simp] theorem State.getV_suspend (x : Reg) (j : Reg) : (s.suspend x).getV j = s.getV j := rfl

/-! `close` -/
@[simp] theorem State.close_v : (s.close).v = s.v := rfl
@[simp] theorem State.close_pc : (s.close).pc = s.pc := rfl
@[simp] theorem State.close_i : (s.close).i = s.i := rfl
@[simp] theorem State.close_sp : (s.close).sp = s.sp := rfl
@[simp] theorem State.close_stack : (s.close).stack = s.stack := rfl
@[simp] theorem State.close_dt : (s.close).dt = s.dt := rfl
@[simp] theorem State.close_st : (s.close).st = s.st := rfl
@[simp] theorem State.close_mem : (s.close).mem = s.mem := rfl
@[simp] theorem State.close_fb : (s.close).fb = s.fb := rfl
@[simp] theorem State.close_status : (s.close).status = .closing := rfl
@[simp] theorem State.close_fault : (s.close).fault = s.fault := rfl
@[simp] theorem State.close_waitX : (s.close).waitX = s.waitX := rfl
@[simp] theorem State.close_trace : (s.close).trace = s.trace := rfl
@[simp] theorem State.close_params : (s.close).params = s.params := rfl
@[simp] theorem State.close_env : (s.close).env = s.env := rfl
@[simp] theorem State.getV_close (j : Reg) : (s.close).getV j = s.getV j := rfl

end Sys2Proof.Machine
end

