-- ==== Sys2Proof/Laws/Ops.lean ====
section
/-! SUPPORT. The shared operations: one lemma each that says everything the operation can do. -/

namespace Sys2Proof.Machine

variable (s : State)

/-! ## The register file -/

@[simp] theorem State.getV_setV_same (k : Reg) (b : Byte) : (s.setV k b).getV k = b := by
  simp [State.getV]

theorem State.getV_setV_ne {j k : Reg} (b : Byte) (h : j ≠ k) : (s.setV k b).getV j = s.getV j := by
  have : k.toNat ≠ j.toNat := fun e => h (BitVec.eq_of_toNat_eq e.symm)
  simp [State.getV, this]

/-- Reading register `j` after writing register `k`. -/
theorem State.getV_setV (j k : Reg) (b : Byte) : (s.setV k b).getV j = if j = k then b else s.getV j := by
  split
  · next h => rw [h, State.getV_setV_same]
  · next h => exact State.getV_setV_ne s b h

/-- Reading register `j` after a block load (R234). -/
theorem State.getV_setBlock (x j : Reg) (bs : List Byte) :
    (s.setBlock x bs).getV j = if j.toNat ≤ x.toNat then bs.getD j.toNat 0 else s.getV j := by
  simp [State.getV, State.setBlock]

theorem State.length_getBlock (x : Reg) : (s.getBlock x).length = x.toNat + 1 := by
  have := x.isLt
  simp [State.getBlock]; omega

/-- Entry `k` of the stored block is register `k` (R233). -/
theorem State.getElem_getBlock (x k : Reg) (h : k.toNat < (s.getBlock x).length) :
    (s.getBlock x)[k.toNat] = s.getV k := by
  simp [State.getBlock, State.getV]

/-! ## Bounds -/

/-- The bound check passes exactly when there is nothing to access or the last byte is inside memory. -/
theorem firstOutside_eq_none (base len : Nat) : firstOutside base len = none ↔ len = 0 ∨ base + len ≤ memSize := by
  unfold firstOutside
  split
  · simp only [reduceCtorEq, false_iff]; omega
  · simp only [true_iff]; omega

/-- Else it names the lowest address outside memory. -/
theorem firstOutside_eq_some {base len : Nat} (h0 : len ≠ 0) (h : memSize < base + len) :
    firstOutside base len = some (max base memSize) := by
  simp [firstOutside, h0, h]

/-- A bounded access either is done or raises, and nothing else. -/
theorem State.bounded_cases (base len : Nat) (t : State) :
    (s.bounded base len t = t ∧ (len = 0 ∨ base + len ≤ memSize)) ∨
    (s.bounded base len t = s.raise (.memoryBounds (max base memSize)) ∧ len ≠ 0 ∧ memSize < base + len) := by
  by_cases h : len = 0 ∨ base + len ≤ memSize
  · exact .inl ⟨by simp [State.bounded, (firstOutside_eq_none base len).2 h], h⟩
  · exact .inr ⟨by simp [State.bounded, firstOutside_eq_some (base := base) (len := len) (by omega) (by omega)], by omega⟩

theorem State.bounded_inside {base len : Nat} (t : State) (h : len = 0 ∨ base + len ≤ memSize) :
    s.bounded base len t = t := by
  simp [State.bounded, (firstOutside_eq_none base len).2 h]

theorem State.bounded_outside {base len : Nat} (t : State) (h0 : len ≠ 0) (h : memSize < base + len) :
    s.bounded base len t = s.raise (.memoryBounds (max base memSize)) := by
  simp [State.bounded, firstOutside_eq_some h0 h]

/-- The load contract (R292). -/
theorem romWellFormed_iff (rom : List Byte) : romWellFormed rom = true ↔ rom.length ≤ 3584 :=
  decide_eq_true_iff

/-- What the end of a tick can do: nothing, or append `Present`. -/
theorem State.endTick_cases : s.endTick = s ∨ s.endTick = s.emit .present := by
  unfold State.endTick
  split
  · exact .inr rfl
  · exact .inl rfl

/-- The key skips: a fault, or one sample taken and a skip on it. -/
theorem State.skipOnKey_cases (k : Byte) (want : Bool) :
    (15 < k.toNat ∧ s.skipOnKey k want = s.raise (.keyIndex k)) ∨
    (k.toNat ≤ 15 ∧ s.skipOnKey k want = s.takeKeys.skipIf (s.keyPressed k.toNat == want)) := by
  by_cases h : 15 < k.toNat
  · exact .inl ⟨h, by simp [State.skipOnKey, h]⟩
  · exact .inr ⟨by omega, by simp [State.skipOnKey, h]⟩

/-- `RET`: underflow, a slot popped, or no such slot. -/
theorem execRet_cases :
    (s.sp = 0 ∧ execRet s = .next (s.raise .stackUnderflow)) ∨
    (s.sp ≠ 0 ∧ ∃ h : s.sp.toNat < 16, execRet s = .next ((s.jump s.stack[s.sp.toNat]).pop)) ∨
    (15 < s.sp.toNat ∧ execRet s = .fault .noStackSlot) := by
  by_cases h0 : s.sp = 0
  · exact .inl ⟨h0, by simp [execRet, h0]⟩
  · by_cases h : s.sp.toNat < 16
    · exact .inr (.inl ⟨h0, h, by rw [execRet, if_neg h0]; simp [h]⟩)
    · exact .inr (.inr ⟨by omega, by rw [execRet, if_neg h0]; simp [h]⟩)

/-- `CALL`: overflow, a slot pushed, or no such slot. -/
theorem execCall_cases (nnn : Addr) :
    (s.sp = 15 ∧ execCall nnn s = .next (s.raise .stackOverflow)) ∨
    (∃ h : s.sp.toNat < 15, execCall nnn s = .next ((s.push (s.pc + 2) h).jump (addrOperand nnn))) ∨
    (15 < s.sp.toNat ∧ execCall nnn s = .fault .noStackSlot) := by
  by_cases h0 : s.sp = 15
  · exact .inl ⟨h0, by simp [execCall, h0]⟩
  · by_cases h : s.sp.toNat < 15
    · exact .inr (.inl ⟨h, by rw [execCall, if_neg h0]; simp [h]⟩)
    · refine .inr (.inr ⟨?_, by rw [execCall, if_neg h0]; simp [h]⟩)
      have : s.sp.toNat ≠ 15 := fun e => h0 (BitVec.eq_of_toNat_eq e)
      omega

end Sys2Proof.Machine
end

