-- ==== Sys2Proof/Laws/Display.lean ====
section
/-! SUPPORT. What drawing does to one pixel and to the collision flag (spec/46_display.md R197, R198): the loop over
the sprite's bits, seen from outside. -/

namespace Sys2Proof.Machine

/-- A pixel is addressed by its coordinates modulo 64 and 32. -/
theorem Framebuffer.pixel_congr (f : Framebuffer) {c c' r r' : Nat} (hc : c % 64 = c' % 64) (hr : r % 32 = r' % 32) :
    f.pixel c r = f.pixel c' r' := by
  simp [Framebuffer.pixel, hc, hr]

/-- Flipping one pixel flips that pixel and no other. -/
theorem Framebuffer.pixel_flip (f : Framebuffer) (c r col row : Nat) :
    (f.flip c r).pixel col row = (f.pixel col row ^^ decide (col % 64 = c % 64 ∧ row % 32 = r % 32)) := by
  by_cases hr : r % 32 = row % 32
  · simp only [Framebuffer.pixel, Framebuffer.flip, hr, Vector.getElem_set_self, BitVec.getLsbD_xor,
      BitVec.getLsbD_twoPow, and_true]
    have : col % 64 < 64 := Nat.mod_lt _ (by decide)
    congr 1
    by_cases hc : col % 64 = c % 64
    · simp [hc]; omega
    · simp [hc, Ne.symm hc]
  · simp [Framebuffer.pixel, Framebuffer.flip, hr, Ne.symm hr]

/-- The columns `k, ..., k + m - 1` of a sprite row at `(x0, y0)` cover the cell. -/
def columnsCover (x0 y0 : Nat) (bits : Byte) (k m col row : Nat) : Prop :=
  row % 32 = y0 % 32 ∧ ∃ j, k ≤ j ∧ j < k + m ∧ spriteBit bits j = true ∧ col % 64 = (x0 + j) % 64

/-- A 1 bit of a sprite whose first row is at `(x0, y0)` lands on the cell. -/
def rowsCover (x0 y0 : Nat) (rows : List Byte) (col row : Nat) : Prop :=
  ∃ r k bits, rows[r]? = some bits ∧ k < 8 ∧ spriteBit bits k = true ∧
    col % 64 = (x0 + k) % 64 ∧ row % 32 = (y0 + r) % 32

theorem columnsCover_succ (x0 y0 : Nat) (bits : Byte) (k m col row : Nat) :
    columnsCover x0 y0 bits k (m + 1) col row ↔
      (spriteBit bits k = true ∧ col % 64 = (x0 + k) % 64 ∧ row % 32 = y0 % 32) ∨
        columnsCover x0 y0 bits (k + 1) m col row := by
  constructor
  · rintro ⟨hr, j, h1, h2, hb, hc⟩
    rcases Nat.eq_or_lt_of_le h1 with rfl | h
    · exact .inl ⟨hb, hc, hr⟩
    · exact .inr ⟨hr, j, h, by omega, hb, hc⟩
  · rintro (⟨hb, hc, hr⟩ | ⟨hr, j, h1, h2, hb, hc⟩)
    · exact ⟨hr, k, Nat.le_refl _, by omega, hb, hc⟩
    · exact ⟨hr, j, by omega, by omega, hb, hc⟩

/-- A pixel after the columns `k, ..., k + m - 1`: flipped exactly where they cover it. No two of them land on one
cell, because `m ≤ 64`. -/
theorem blitColumns_pixel (m : Nat) (b : Blit) (x0 y0 : Nat) (bits : Byte) (k col row : Nat) (hm : m ≤ 64) :
    (blitColumns b x0 y0 bits k m).1.pixel col row = true ↔
      ¬ (b.1.pixel col row = true ↔ columnsCover x0 y0 bits k m col row) := by
  induction m generalizing b k with
  | zero =>
    have : ¬ columnsCover x0 y0 bits k 0 col row := fun ⟨_, j, h1, h2, _⟩ => by omega
    simp [blitColumns, this]
  | succ m ih =>
    rw [blitColumns, ih _ _ (by omega), columnsCover_succ]
    by_cases hb : spriteBit bits k = true
    · simp only [hb, if_true, blitPixel, Framebuffer.pixel_flip, true_and]
      by_cases hc : col % 64 = (x0 + k) % 64 ∧ row % 32 = y0 % 32
      · have : ¬ columnsCover x0 y0 bits (k + 1) m col row := by
          rintro ⟨_, j, h1, h2, _, h3⟩; omega
        simp [hc, this]
      · simp [hc]
    · simp [hb]

/-- The collision after the columns: one of them met a set pixel (R198). -/
theorem blitColumns_hit (m : Nat) (b : Blit) (x0 y0 : Nat) (bits : Byte) (k : Nat) (hm : m ≤ 64) :
    (blitColumns b x0 y0 bits k m).2 = true ↔
      b.2 = true ∨ ∃ col row, columnsCover x0 y0 bits k m col row ∧ b.1.pixel col row = true := by
  induction m generalizing b k with
  | zero =>
    have : ∀ col row, ¬ columnsCover x0 y0 bits k 0 col row := fun _ _ ⟨_, j, h1, h2, _⟩ => by omega
    simp [blitColumns, this]
  | succ m ih =>
    rw [blitColumns, ih _ _ (by omega)]
    by_cases hb : spriteBit bits k = true
    · simp only [hb, if_true, blitPixel, columnsCover_succ, true_and, Framebuffer.pixel_flip, Bool.or_eq_true]
      constructor
      · rintro ((h | h) | ⟨col, row, hc, hp⟩)
        · exact .inl h
        · exact .inr ⟨x0 + k, y0, .inl ⟨rfl, rfl⟩, h⟩
        · have hne : ¬ (col % 64 = (x0 + k) % 64 ∧ row % 32 = y0 % 32) := by
            obtain ⟨_, j, h1, h2, _, h3⟩ := hc; omega
          exact .inr ⟨col, row, .inr hc, by simpa [hne] using hp⟩
      · rintro (h | ⟨col, row, hc | hc, hp⟩)
        · exact .inl (.inl h)
        · exact .inl (.inr (by rwa [← Framebuffer.pixel_congr b.1 hc.1 hc.2]))
        · have hne : ¬ (col % 64 = (x0 + k) % 64 ∧ row % 32 = y0 % 32) := by
            obtain ⟨_, j, h1, h2, _, h3⟩ := hc; omega
          exact .inr ⟨col, row, hc, by simpa [hne] using hp⟩
    · simp [hb, columnsCover_succ]

theorem rowsCover_cons (x0 y0 : Nat) (bits : Byte) (rows : List Byte) (col row : Nat) :
    rowsCover x0 y0 (bits :: rows) col row ↔
      columnsCover x0 y0 bits 0 8 col row ∨ rowsCover x0 (y0 + 1) rows col row := by
  constructor
  · rintro ⟨r, k, bs, hr, hk, hb, hc, hl⟩
    cases r with
    | zero =>
      simp only [List.getElem?_cons_zero, Option.some.injEq] at hr
      subst hr
      exact .inl ⟨hl, k, Nat.zero_le _, by omega, hb, hc⟩
    | succ r => exact .inr ⟨r, k, bs, by simpa using hr, hk, hb, hc, by rw [hl]; congr 1; omega⟩
  · rintro (⟨hl, k, _, hk, hb, hc⟩ | ⟨r, k, bs, hr, hk, hb, hc, hl⟩)
    · exact ⟨0, k, bits, rfl, by omega, hb, hc, hl⟩
    · exact ⟨r + 1, k, bs, by simpa using hr, hk, hb, hc, by rw [hl]; congr 1; omega⟩

/-- The first row of a sprite and the rows below it land on different lines. -/
theorem columnsCover_not_rowsCover {x0 y0 : Nat} {bits : Byte} {rows : List Byte} {col row : Nat}
    (hn : rows.length < 32) (h : columnsCover x0 y0 bits 0 8 col row) : ¬ rowsCover x0 (y0 + 1) rows col row := by
  rintro ⟨r, k, bs, hr, _, _, _, hl⟩
  have := (List.getElem?_eq_some_iff.1 hr).1
  have := h.1
  omega

/-- A pixel after a sprite of at most 32 rows: flipped exactly where a 1 bit lands (R197). -/
theorem blitRows_pixel (rows : List Byte) (b : Blit) (x0 y0 col row : Nat) (hn : rows.length ≤ 32) :
    (blitRows b x0 y0 rows).1.pixel col row = true ↔
      ¬ (b.1.pixel col row = true ↔ rowsCover x0 y0 rows col row) := by
  induction rows generalizing b y0 with
  | nil => simp [blitRows, rowsCover]
  | cons bits rows ih =>
    simp only [List.length_cons] at hn
    rw [blitRows, ih _ _ (by omega), blitColumns_pixel _ _ _ _ _ _ _ _ (by decide), rowsCover_cons]
    have := @columnsCover_not_rowsCover x0 y0 bits rows col row (by omega)
    tauto

/-- The collision after a sprite of at most 32 rows: a 1 bit landed on a pixel that was set before (R198). -/
theorem blitRows_hit (rows : List Byte) (b : Blit) (x0 y0 : Nat) (hn : rows.length ≤ 32) :
    (blitRows b x0 y0 rows).2 = true ↔
      b.2 = true ∨ ∃ col row, rowsCover x0 y0 rows col row ∧ b.1.pixel col row = true := by
  induction rows generalizing b y0 with
  | nil => simp [blitRows, rowsCover]
  | cons bits rows ih =>
    simp only [List.length_cons] at hn
    rw [blitRows, ih _ _ (by omega), blitColumns_hit _ _ _ _ _ _ (by decide)]
    simp only [rowsCover_cons, blitColumns_pixel _ _ _ _ _ _ _ _ (show (8 : Nat) ≤ 64 by decide)]
    constructor
    · rintro ((h | ⟨c, r, hc, hp⟩) | ⟨c, r, hc, hp⟩)
      · exact .inl h
      · exact .inr ⟨c, r, .inl hc, hp⟩
      · have := fun h => @columnsCover_not_rowsCover x0 y0 bits rows c r (by omega) h hc
        exact .inr ⟨c, r, .inr hc, by tauto⟩
    · rintro (h | ⟨c, r, hc | hc, hp⟩)
      · exact .inl (.inl h)
      · exact .inl (.inr ⟨c, r, hc, hp⟩)
      · have := fun h => @columnsCover_not_rowsCover x0 y0 bits rows c r (by omega) h hc
        exact .inr ⟨c, r, hc, by tauto⟩

/-- Two framebuffers with the same pixels are equal. -/
theorem Framebuffer.ext_pixel {f g : Framebuffer}
    (h : ∀ col row, col < 64 → row < 32 → f.pixel col row = g.pixel col row) : f = g := by
  apply Vector.ext
  intro row hrow
  apply BitVec.eq_of_getLsbD_eq
  intro col hcol
  have := h col row hcol hrow
  simpa [Framebuffer.pixel, Nat.mod_eq_of_lt hcol, Nat.mod_eq_of_lt hrow] using this

/-- After the drawing: `VF`, the framebuffer, `pc` and the trace are written, nothing else (R197). -/
theorem State.drawn_eq (s : State) (b : Blit) : s.drawn b =
    { s with v := (s.setV flagReg (flagByte b.2)).v, fb := b.1, pc := s.pc + 2, trace := (s.drawn b).trace } := by
  dsimp only [State.drawn]
  split <;> rfl

/-- The trace after the drawing: `Present` on a collision under `on_collision` (R199). -/
theorem State.drawn_trace (s : State) (b : Blit) : (s.drawn b).trace =
    s.trace ++ (if b.2 = true ∧ s.params.presentPolicy = .onCollision then [.present] else []) := by
  cases hb : b.2
  · simp [State.drawn, hb]
  · simp [State.drawn, hb]
    split <;> simp

end Sys2Proof.Machine
end

