-- ==== Sys2Proof/Laws/Encoding.lean ====
section
/-! SUPPORT. Fields of encoded words, and what a row's mask says about the fields of a word it covers. -/

namespace Sys2Proof

/-- A word is its four nibbles (R8, R92). -/
theorem word_eq_nibbles (w : Word) : groupOf w ++ xOf w ++ yOf w ++ nOf w = w := by
  apply BitVec.eq_of_getLsbD_eq
  intro i hi
  simp only [groupOf, xOf, yOf, nOf, BitVec.getLsbD_append, BitVec.getLsbD_extractLsb']
  rcases Nat.lt_or_ge i 4 with h | h
  · simp [h]
  · rcases Nat.lt_or_ge i 8 with h8 | h8
    · simp [show ¬ i < 4 by omega, show i - 4 < 4 by omega, show 4 + (i - 4) = i by omega]
    · rcases Nat.lt_or_ge i 12 with h12 | h12
      · simp [show ¬ i < 4 by omega, show ¬ i - 4 < 4 by omega, show i - 4 - 4 < 4 by omega,
          show 8 + (i - 4 - 4) = i by omega]
      · simp [show ¬ i < 4 by omega, show ¬ i - 4 < 4 by omega, show ¬ i - 4 - 4 < 4 by omega,
          show i - 4 - 4 - 4 < 4 by omega, show 12 + (i - 4 - 4 - 4) = i by omega]

/-- `kk` is the two low nibbles. -/
theorem kkOf_eq_nibbles (w : Word) : yOf w ++ nOf w = kkOf w := by
  apply BitVec.eq_of_getLsbD_eq
  intro i hi
  simp only [yOf, nOf, kkOf, BitVec.getLsbD_append, BitVec.getLsbD_extractLsb']
  rcases Nat.lt_or_ge i 4 with h | h
  · simp [h, hi]
  · simp [show ¬ i < 4 by omega, show i - 4 < 4 by omega, show 4 + (i - 4) = i by omega, hi]

/-- `nnn` is the three low nibbles. -/
theorem nnnOf_eq_nibbles (w : Word) : xOf w ++ yOf w ++ nOf w = nnnOf w := by
  apply BitVec.eq_of_getLsbD_eq
  intro i hi
  simp only [xOf, yOf, nOf, nnnOf, BitVec.getLsbD_append, BitVec.getLsbD_extractLsb']
  rcases Nat.lt_or_ge i 4 with h | h
  · simp [h, hi]
  · rcases Nat.lt_or_ge i 8 with h8 | h8
    · simp [show ¬ i < 4 by omega, show i - 4 < 4 by omega, show 4 + (i - 4) = i by omega, hi]
    · simp [show ¬ i < 4 by omega, show ¬ i - 4 < 4 by omega, show i - 4 - 4 < 4 by omega,
        show 8 + (i - 4 - 4) = i by omega, hi]

/-- A word as group and address. -/
theorem word_eq_address (w : Word) : groupOf w ++ nnnOf w = w := by
  apply BitVec.eq_of_getLsbD_eq
  intro i hi
  simp only [groupOf, nnnOf, BitVec.getLsbD_append, BitVec.getLsbD_extractLsb']
  rcases Nat.lt_or_ge i 12 with h | h
  · simp [h]
  · simp [show ¬ i < 12 by omega, show i - 12 < 4 by omega, show 12 + (i - 12) = i by omega]

/-- A word as group, register and byte. -/
theorem word_eq_immediate (w : Word) : groupOf w ++ xOf w ++ kkOf w = w := by
  apply BitVec.eq_of_getLsbD_eq
  intro i hi
  simp only [groupOf, xOf, kkOf, BitVec.getLsbD_append, BitVec.getLsbD_extractLsb']
  rcases Nat.lt_or_ge i 8 with h | h
  · simp [h]
  · rcases Nat.lt_or_ge i 12 with h12 | h12
    · simp [show ¬ i < 8 by omega, show i - 8 < 4 by omega, show 8 + (i - 8) = i by omega]
    · simp [show ¬ i < 8 by omega, show ¬ i - 8 < 4 by omega, show i - 8 - 4 < 4 by omega,
        show 12 + (i - 8 - 4) = i by omega]

/-- The opcode of two bytes is the first times 256 plus the second (R67). -/
theorem toNat_opcodeOfBytes (hi lo : Byte) : (opcodeOfBytes hi lo).toNat = hi.toNat * 256 + lo.toNat := by
  change BitVec.toNat (w := 8 + 8) (hi ++ lo) = _
  rw [BitVec.toNat_append, ← Nat.shiftLeft_add_eq_or_of_lt lo.isLt, Nat.shiftLeft_eq]

/-- The two bytes of a word make the word again (R67). -/
theorem opcodeOfBytes_wordBytes (w : Word) : opcodeOfBytes (w.extractLsb' 8 8) (w.extractLsb' 0 8) = w := by
  apply BitVec.eq_of_getLsbD_eq
  intro i hi
  simp only [opcodeOfBytes, BitVec.getLsbD_append, BitVec.getLsbD_extractLsb']
  rcases Nat.lt_or_ge i 8 with h | h
  · simp [h]
  · simp [show ¬ i < 8 by omega, show i - 8 < 8 by omega, show 8 + (i - 8) = i by omega]

section Fields
variable (g x y n : BitVec 4) (kk : Byte) (nnn : Addr)

@[simp] theorem groupOf_nibbles : groupOf (g ++ x ++ y ++ n) = g := by
  change BitVec.extractLsb' 12 4 (g ++ x ++ y ++ n : BitVec (4 + 4 + 4 + 4)) = g
  apply BitVec.eq_of_getLsbD_eq
  intro i hi
  simp only [BitVec.getLsbD_extractLsb', hi, decide_true, Bool.true_and, BitVec.getLsbD_append]
  simp [show ¬ 12 + i < 4 by omega, show ¬ 12 + i - 4 < 4 by omega, show ¬ 12 + i - 4 - 4 < 4 by omega, show 12 + i - 4 - 4 - 4 = i by omega]
@[simp] theorem xOf_nibbles : xOf (g ++ x ++ y ++ n) = x := by
  change BitVec.extractLsb' 8 4 (g ++ x ++ y ++ n : BitVec (4 + 4 + 4 + 4)) = x
  apply BitVec.eq_of_getLsbD_eq
  intro i hi
  simp only [BitVec.getLsbD_extractLsb', hi, decide_true, Bool.true_and, BitVec.getLsbD_append]
  simp [show ¬ 8 + i < 4 by omega, show ¬ 8 + i - 4 < 4 by omega, show 8 + i - 4 - 4 = i by omega, hi]
@[simp] theorem yOf_nibbles : yOf (g ++ x ++ y ++ n) = y := by
  change BitVec.extractLsb' 4 4 (g ++ x ++ y ++ n : BitVec (4 + 4 + 4 + 4)) = y
  apply BitVec.eq_of_getLsbD_eq
  intro i hi
  simp only [BitVec.getLsbD_extractLsb', hi, decide_true, Bool.true_and, BitVec.getLsbD_append]
  simp [show ¬ 4 + i < 4 by omega, show 4 + i - 4 = i by omega, hi]
@[simp] theorem nOf_nibbles : nOf (g ++ x ++ y ++ n) = n := by
  change BitVec.extractLsb' 0 4 (g ++ x ++ y ++ n : BitVec (4 + 4 + 4 + 4)) = n
  apply BitVec.eq_of_getLsbD_eq
  intro i hi
  simp only [BitVec.getLsbD_extractLsb', hi, decide_true, Bool.true_and, BitVec.getLsbD_append]
  simp [hi]
@[simp] theorem groupOf_immediate : groupOf (g ++ x ++ kk) = g := by
  change BitVec.extractLsb' 12 4 (g ++ x ++ kk : BitVec (4 + 4 + 8)) = g
  apply BitVec.eq_of_getLsbD_eq
  intro i hi
  simp only [BitVec.getLsbD_extractLsb', hi, decide_true, Bool.true_and, BitVec.getLsbD_append]
  simp [show ¬ 12 + i < 8 by omega, show ¬ 12 + i - 8 < 4 by omega, show 12 + i - 8 - 4 = i by omega]
@[simp] theorem xOf_immediate : xOf (g ++ x ++ kk) = x := by
  change BitVec.extractLsb' 8 4 (g ++ x ++ kk : BitVec (4 + 4 + 8)) = x
  apply BitVec.eq_of_getLsbD_eq
  intro i hi
  simp only [BitVec.getLsbD_extractLsb', hi, decide_true, Bool.true_and, BitVec.getLsbD_append]
  simp [show ¬ 8 + i < 8 by omega, show 8 + i - 8 = i by omega, hi]
@[simp] theorem kkOf_immediate : kkOf (g ++ x ++ kk) = kk := by
  change BitVec.extractLsb' 0 8 (g ++ x ++ kk : BitVec (4 + 4 + 8)) = kk
  apply BitVec.eq_of_getLsbD_eq
  intro i hi
  simp only [BitVec.getLsbD_extractLsb', hi, decide_true, Bool.true_and, BitVec.getLsbD_append]
  simp [hi]
@[simp] theorem groupOf_address : groupOf (g ++ nnn) = g := by
  change BitVec.extractLsb' 12 4 (g ++ nnn : BitVec (4 + 12)) = g
  apply BitVec.eq_of_getLsbD_eq
  intro i hi
  simp only [BitVec.getLsbD_extractLsb', hi, decide_true, Bool.true_and, BitVec.getLsbD_append]
  simp [show ¬ 12 + i < 12 by omega, show 12 + i - 12 = i by omega]
@[simp] theorem nnnOf_address : nnnOf (g ++ nnn) = nnn := by
  change BitVec.extractLsb' 0 12 (g ++ nnn : BitVec (4 + 12)) = nnn
  apply BitVec.eq_of_getLsbD_eq
  intro i hi
  simp only [BitVec.getLsbD_extractLsb', hi, decide_true, Bool.true_and, BitVec.getLsbD_append]
  simp [hi]
@[simp] theorem yOf_immediate : yOf (g ++ x ++ kk) = kk.extractLsb' 4 4 := by
  change BitVec.extractLsb' 4 4 (g ++ x ++ kk : BitVec (4 + 4 + 8)) = _
  apply BitVec.eq_of_getLsbD_eq
  intro i hi
  simp only [BitVec.getLsbD_extractLsb', hi, decide_true, Bool.true_and, BitVec.getLsbD_append]
  simp [show 4 + i < 8 by omega]
@[simp] theorem nOf_immediate : nOf (g ++ x ++ kk) = kk.extractLsb' 0 4 := by
  change BitVec.extractLsb' 0 4 (g ++ x ++ kk : BitVec (4 + 4 + 8)) = _
  apply BitVec.eq_of_getLsbD_eq
  intro i hi
  simp only [BitVec.getLsbD_extractLsb', hi, decide_true, Bool.true_and, BitVec.getLsbD_append]
  simp [show i < 8 by omega]
end Fields

/-! A field that a mask keeps whole has the value the row's match gives it. -/

theorem groupOf_of_mask {w m a : Word} (h : w &&& m = a) (hm : groupOf m = 15) : groupOf w = groupOf a := by
  subst h
  have : groupOf (w &&& m) = groupOf w &&& groupOf m := by simp [groupOf, BitVec.extractLsb'_and]
  rw [this, hm]; exact (BitVec.and_allOnes (x := groupOf w)).symm

theorem xOf_of_mask {w m a : Word} (h : w &&& m = a) (hm : xOf m = 15) : xOf w = xOf a := by
  subst h
  have : xOf (w &&& m) = xOf w &&& xOf m := by simp [xOf, BitVec.extractLsb'_and]
  rw [this, hm]; exact (BitVec.and_allOnes (x := xOf w)).symm

theorem nOf_of_mask {w m a : Word} (h : w &&& m = a) (hm : nOf m = 15) : nOf w = nOf a := by
  subst h
  have : nOf (w &&& m) = nOf w &&& nOf m := by simp [nOf, BitVec.extractLsb'_and]
  rw [this, hm]; exact (BitVec.and_allOnes (x := nOf w)).symm

theorem kkOf_of_mask {w m a : Word} (h : w &&& m = a) (hm : kkOf m = 255) : kkOf w = kkOf a := by
  subst h
  have : kkOf (w &&& m) = kkOf w &&& kkOf m := by simp [kkOf, BitVec.extractLsb'_and]
  rw [this, hm]; exact (BitVec.and_allOnes (x := kkOf w)).symm

/-- Conversely, a word whose nibbles agree with the match wherever the mask is set is covered by it. -/
theorem mask_of_nibbles {w m a : Word} (hg : groupOf w &&& groupOf m = groupOf a) (hx : xOf w &&& xOf m = xOf a)
    (hy : yOf w &&& yOf m = yOf a) (hn : nOf w &&& nOf m = nOf a) : w &&& m = a := by
  rw [← word_eq_nibbles (w &&& m), ← word_eq_nibbles a]
  have h1 : groupOf (w &&& m) = groupOf a := by rw [← hg]; simp [groupOf, BitVec.extractLsb'_and]
  have h2 : xOf (w &&& m) = xOf a := by rw [← hx]; simp [xOf, BitVec.extractLsb'_and]
  have h3 : yOf (w &&& m) = yOf a := by rw [← hy]; simp [yOf, BitVec.extractLsb'_and]
  have h4 : nOf (w &&& m) = nOf a := by rw [← hn]; simp [nOf, BitVec.extractLsb'_and]
  rw [h1, h2, h3, h4]

end Sys2Proof
end

