-- ==== Sys2Proof/Laws/PerInstr.lean ====
section
/-! SUPPORT. Statements about every instruction as syntax, one lemma a constructor. Family `RowMatch`: the word the
encoder writes lies in a row of Table R100 that reads the instruction back. -/

namespace Sys2Proof.Laws

/-- Some row of Table R100 covers the instruction's word and reads it as the instruction. -/
def RowMatch.Statement (i : Instr) : Prop :=
  ∃ r ∈ opcodeTable true, r.covers (encode i) = true ∧ r.instr (encode i) = i

/-- The statement from the place of the row in the table, and its mask, match and reading. -/
theorem RowMatch.of_row {i : Instr} (k : Nat) (hk : k < (opcodeTable true).length)
    (hg : groupOf (encode i) &&& groupOf (opcodeTable true)[k].mask = groupOf (opcodeTable true)[k].mat)
    (hx : xOf (encode i) &&& xOf (opcodeTable true)[k].mask = xOf (opcodeTable true)[k].mat)
    (hy : yOf (encode i) &&& yOf (opcodeTable true)[k].mask = yOf (opcodeTable true)[k].mat)
    (hn : nOf (encode i) &&& nOf (opcodeTable true)[k].mask = nOf (opcodeTable true)[k].mat)
    (hi : (opcodeTable true)[k].instr (encode i) = i) : RowMatch.Statement i :=
  ⟨(opcodeTable true)[k], List.getElem_mem hk, by
    rw [OpRow.covers, mask_of_nibbles hg hx hy hn, beq_self_eq_true], hi⟩

theorem RowMatch.cls : RowMatch.Statement (.cls) :=
  RowMatch.of_row 0 (by decide) (by decide) (by decide) (by decide) (by decide) rfl

theorem RowMatch.ret : RowMatch.Statement (.ret) :=
  RowMatch.of_row 1 (by decide) (by decide) (by decide) (by decide) (by decide) rfl

theorem RowMatch.jp (nnn : Addr) : RowMatch.Statement (.jp nnn) :=
  by
    refine RowMatch.of_row 2 (by decide) ?_ ?_ ?_ ?_ ?_
    · change groupOf _ &&& 0xF#4 = 0x1#4; simp [encode]
    · change xOf _ &&& 0x0#4 = 0x0#4; simp [encode]
    · change yOf _ &&& 0x0#4 = 0x0#4; simp [encode]
    · change nOf _ &&& 0x0#4 = 0x0#4; simp [encode]
    · change Instr.jp (nnnOf (encode (.jp nnn))) = _; simp [encode]

theorem RowMatch.call (nnn : Addr) : RowMatch.Statement (.call nnn) :=
  by
    refine RowMatch.of_row 3 (by decide) ?_ ?_ ?_ ?_ ?_
    · change groupOf _ &&& 0xF#4 = 0x2#4; simp [encode]
    · change xOf _ &&& 0x0#4 = 0x0#4; simp [encode]
    · change yOf _ &&& 0x0#4 = 0x0#4; simp [encode]
    · change nOf _ &&& 0x0#4 = 0x0#4; simp [encode]
    · change Instr.call (nnnOf (encode (.call nnn))) = _; simp [encode]

theorem RowMatch.seByte (x : Reg) (kk : Byte) : RowMatch.Statement (.seByte x kk) :=
  by
    refine RowMatch.of_row 4 (by decide) ?_ ?_ ?_ ?_ ?_
    · change groupOf _ &&& 0xF#4 = 0x3#4; simp [encode]
    · change xOf _ &&& 0x0#4 = 0x0#4; simp [encode]
    · change yOf _ &&& 0x0#4 = 0x0#4; simp [encode]
    · change nOf _ &&& 0x0#4 = 0x0#4; simp [encode]
    · change Instr.seByte (xOf (encode (.seByte x kk))) (kkOf (encode (.seByte x kk))) = _; simp [encode]

theorem RowMatch.sneByte (x : Reg) (kk : Byte) : RowMatch.Statement (.sneByte x kk) :=
  by
    refine RowMatch.of_row 5 (by decide) ?_ ?_ ?_ ?_ ?_
    · change groupOf _ &&& 0xF#4 = 0x4#4; simp [encode]
    · change xOf _ &&& 0x0#4 = 0x0#4; simp [encode]
    · change yOf _ &&& 0x0#4 = 0x0#4; simp [encode]
    · change nOf _ &&& 0x0#4 = 0x0#4; simp [encode]
    · change Instr.sneByte (xOf (encode (.sneByte x kk))) (kkOf (encode (.sneByte x kk))) = _; simp [encode]

theorem RowMatch.seReg (x y : Reg) : RowMatch.Statement (.seReg x y) :=
  by
    refine RowMatch.of_row 6 (by decide) ?_ ?_ ?_ ?_ ?_
    · change groupOf _ &&& 0xF#4 = 0x5#4; simp [encode]
    · change xOf _ &&& 0x0#4 = 0x0#4; simp [encode]
    · change yOf _ &&& 0x0#4 = 0x0#4; simp [encode]
    · change nOf _ &&& 0xF#4 = 0x0#4; simp [encode]
    · change Instr.seReg (xOf (encode (.seReg x y))) (yOf (encode (.seReg x y))) = _; simp [encode]

theorem RowMatch.sneReg (x y : Reg) : RowMatch.Statement (.sneReg x y) :=
  by
    refine RowMatch.of_row 7 (by decide) ?_ ?_ ?_ ?_ ?_
    · change groupOf _ &&& 0xF#4 = 0x9#4; simp [encode]
    · change xOf _ &&& 0x0#4 = 0x0#4; simp [encode]
    · change yOf _ &&& 0x0#4 = 0x0#4; simp [encode]
    · change nOf _ &&& 0xF#4 = 0x0#4; simp [encode]
    · change Instr.sneReg (xOf (encode (.sneReg x y))) (yOf (encode (.sneReg x y))) = _; simp [encode]

theorem RowMatch.ldByte (x : Reg) (kk : Byte) : RowMatch.Statement (.ldByte x kk) :=
  by
    refine RowMatch.of_row 8 (by decide) ?_ ?_ ?_ ?_ ?_
    · change groupOf _ &&& 0xF#4 = 0x6#4; simp [encode]
    · change xOf _ &&& 0x0#4 = 0x0#4; simp [encode]
    · change yOf _ &&& 0x0#4 = 0x0#4; simp [encode]
    · change nOf _ &&& 0x0#4 = 0x0#4; simp [encode]
    · change Instr.ldByte (xOf (encode (.ldByte x kk))) (kkOf (encode (.ldByte x kk))) = _; simp [encode]

theorem RowMatch.addByte (x : Reg) (kk : Byte) : RowMatch.Statement (.addByte x kk) :=
  by
    refine RowMatch.of_row 9 (by decide) ?_ ?_ ?_ ?_ ?_
    · change groupOf _ &&& 0xF#4 = 0x7#4; simp [encode]
    · change xOf _ &&& 0x0#4 = 0x0#4; simp [encode]
    · change yOf _ &&& 0x0#4 = 0x0#4; simp [encode]
    · change nOf _ &&& 0x0#4 = 0x0#4; simp [encode]
    · change Instr.addByte (xOf (encode (.addByte x kk))) (kkOf (encode (.addByte x kk))) = _; simp [encode]

theorem RowMatch.mov (x y : Reg) : RowMatch.Statement (.mov x y) :=
  by
    refine RowMatch.of_row 10 (by decide) ?_ ?_ ?_ ?_ ?_
    · change groupOf _ &&& 0xF#4 = 0x8#4; simp [encode]
    · change xOf _ &&& 0x0#4 = 0x0#4; simp [encode]
    · change yOf _ &&& 0x0#4 = 0x0#4; simp [encode]
    · change nOf _ &&& 0xF#4 = 0x0#4; simp [encode]
    · change Instr.mov (xOf (encode (.mov x y))) (yOf (encode (.mov x y))) = _; simp [encode]

theorem RowMatch.or (x y : Reg) : RowMatch.Statement (.or x y) :=
  by
    refine RowMatch.of_row 11 (by decide) ?_ ?_ ?_ ?_ ?_
    · change groupOf _ &&& 0xF#4 = 0x8#4; simp [encode]
    · change xOf _ &&& 0x0#4 = 0x0#4; simp [encode]
    · change yOf _ &&& 0x0#4 = 0x0#4; simp [encode]
    · change nOf _ &&& 0xF#4 = 0x1#4; simp [encode]
    · change Instr.or (xOf (encode (.or x y))) (yOf (encode (.or x y))) = _; simp [encode]

theorem RowMatch.and (x y : Reg) : RowMatch.Statement (.and x y) :=
  by
    refine RowMatch.of_row 12 (by decide) ?_ ?_ ?_ ?_ ?_
    · change groupOf _ &&& 0xF#4 = 0x8#4; simp [encode]
    · change xOf _ &&& 0x0#4 = 0x0#4; simp [encode]
    · change yOf _ &&& 0x0#4 = 0x0#4; simp [encode]
    · change nOf _ &&& 0xF#4 = 0x2#4; simp [encode]
    · change Instr.and (xOf (encode (.and x y))) (yOf (encode (.and x y))) = _; simp [encode]

theorem RowMatch.xor (x y : Reg) : RowMatch.Statement (.xor x y) :=
  by
    refine RowMatch.of_row 13 (by decide) ?_ ?_ ?_ ?_ ?_
    · change groupOf _ &&& 0xF#4 = 0x8#4; simp [encode]
    · change xOf _ &&& 0x0#4 = 0x0#4; simp [encode]
    · change yOf _ &&& 0x0#4 = 0x0#4; simp [encode]
    · change nOf _ &&& 0xF#4 = 0x3#4; simp [encode]
    · change Instr.xor (xOf (encode (.xor x y))) (yOf (encode (.xor x y))) = _; simp [encode]

theorem RowMatch.add (x y : Reg) : RowMatch.Statement (.add x y) :=
  by
    refine RowMatch.of_row 14 (by decide) ?_ ?_ ?_ ?_ ?_
    · change groupOf _ &&& 0xF#4 = 0x8#4; simp [encode]
    · change xOf _ &&& 0x0#4 = 0x0#4; simp [encode]
    · change yOf _ &&& 0x0#4 = 0x0#4; simp [encode]
    · change nOf _ &&& 0xF#4 = 0x4#4; simp [encode]
    · change Instr.add (xOf (encode (.add x y))) (yOf (encode (.add x y))) = _; simp [encode]

theorem RowMatch.sub (x y : Reg) : RowMatch.Statement (.sub x y) :=
  by
    refine RowMatch.of_row 15 (by decide) ?_ ?_ ?_ ?_ ?_
    · change groupOf _ &&& 0xF#4 = 0x8#4; simp [encode]
    · change xOf _ &&& 0x0#4 = 0x0#4; simp [encode]
    · change yOf _ &&& 0x0#4 = 0x0#4; simp [encode]
    · change nOf _ &&& 0xF#4 = 0x5#4; simp [encode]
    · change Instr.sub (xOf (encode (.sub x y))) (yOf (encode (.sub x y))) = _; simp [encode]

theorem RowMatch.shr (x y : Reg) : RowMatch.Statement (.shr x y) :=
  by
    refine RowMatch.of_row 16 (by decide) ?_ ?_ ?_ ?_ ?_
    · change groupOf _ &&& 0xF#4 = 0x8#4; simp [encode]
    · change xOf _ &&& 0x0#4 = 0x0#4; simp [encode]
    · change yOf _ &&& 0x0#4 = 0x0#4; simp [encode]
    · change nOf _ &&& 0xF#4 = 0x6#4; simp [encode]
    · change Instr.shr (xOf (encode (.shr x y))) (yOf (encode (.shr x y))) = _; simp [encode]

theorem RowMatch.subn (x y : Reg) : RowMatch.Statement (.subn x y) :=
  by
    refine RowMatch.of_row 17 (by decide) ?_ ?_ ?_ ?_ ?_
    · change groupOf _ &&& 0xF#4 = 0x8#4; simp [encode]
    · change xOf _ &&& 0x0#4 = 0x0#4; simp [encode]
    · change yOf _ &&& 0x0#4 = 0x0#4; simp [encode]
    · change nOf _ &&& 0xF#4 = 0x7#4; simp [encode]
    · change Instr.subn (xOf (encode (.subn x y))) (yOf (encode (.subn x y))) = _; simp [encode]

theorem RowMatch.shl (x y : Reg) : RowMatch.Statement (.shl x y) :=
  by
    refine RowMatch.of_row 18 (by decide) ?_ ?_ ?_ ?_ ?_
    · change groupOf _ &&& 0xF#4 = 0x8#4; simp [encode]
    · change xOf _ &&& 0x0#4 = 0x0#4; simp [encode]
    · change yOf _ &&& 0x0#4 = 0x0#4; simp [encode]
    · change nOf _ &&& 0xF#4 = 0xE#4; simp [encode]
    · change Instr.shl (xOf (encode (.shl x y))) (yOf (encode (.shl x y))) = _; simp [encode]

theorem RowMatch.ldI (nnn : Addr) : RowMatch.Statement (.ldI nnn) :=
  by
    refine RowMatch.of_row 19 (by decide) ?_ ?_ ?_ ?_ ?_
    · change groupOf _ &&& 0xF#4 = 0xA#4; simp [encode]
    · change xOf _ &&& 0x0#4 = 0x0#4; simp [encode]
    · change yOf _ &&& 0x0#4 = 0x0#4; simp [encode]
    · change nOf _ &&& 0x0#4 = 0x0#4; simp [encode]
    · change Instr.ldI (nnnOf (encode (.ldI nnn))) = _; simp [encode]

theorem RowMatch.jpV0 (nnn : Addr) : RowMatch.Statement (.jpV0 nnn) :=
  by
    refine RowMatch.of_row 20 (by decide) ?_ ?_ ?_ ?_ ?_
    · change groupOf _ &&& 0xF#4 = 0xB#4; simp [encode]
    · change xOf _ &&& 0x0#4 = 0x0#4; simp [encode]
    · change yOf _ &&& 0x0#4 = 0x0#4; simp [encode]
    · change nOf _ &&& 0x0#4 = 0x0#4; simp [encode]
    · change Instr.jpV0 (nnnOf (encode (.jpV0 nnn))) = _; simp [encode]

theorem RowMatch.rnd (x : Reg) (kk : Byte) : RowMatch.Statement (.rnd x kk) :=
  by
    refine RowMatch.of_row 21 (by decide) ?_ ?_ ?_ ?_ ?_
    · change groupOf _ &&& 0xF#4 = 0xC#4; simp [encode]
    · change xOf _ &&& 0x0#4 = 0x0#4; simp [encode]
    · change yOf _ &&& 0x0#4 = 0x0#4; simp [encode]
    · change nOf _ &&& 0x0#4 = 0x0#4; simp [encode]
    · change Instr.rnd (xOf (encode (.rnd x kk))) (kkOf (encode (.rnd x kk))) = _; simp [encode]

theorem RowMatch.drw (x y : Reg) (n : Nibble) : RowMatch.Statement (.drw x y n) :=
  by
    refine RowMatch.of_row 22 (by decide) ?_ ?_ ?_ ?_ ?_
    · change groupOf _ &&& 0xF#4 = 0xD#4; simp [encode]
    · change xOf _ &&& 0x0#4 = 0x0#4; simp [encode]
    · change yOf _ &&& 0x0#4 = 0x0#4; simp [encode]
    · change nOf _ &&& 0x0#4 = 0x0#4; simp [encode]
    · change Instr.drw (xOf (encode (.drw x y n))) (yOf (encode (.drw x y n))) (nOf (encode (.drw x y n))) = _; simp [encode]

theorem RowMatch.skp (x : Reg) : RowMatch.Statement (.skp x) :=
  by
    refine RowMatch.of_row 23 (by decide) ?_ ?_ ?_ ?_ ?_
    · change groupOf _ &&& 0xF#4 = 0xE#4; simp [encode]
    · change xOf _ &&& 0x0#4 = 0x0#4; simp [encode]
    · change yOf _ &&& 0xF#4 = 0x9#4; simp [encode]
    · change nOf _ &&& 0xF#4 = 0xE#4; simp [encode]
    · change Instr.skp (xOf (encode (.skp x))) = _; simp [encode]

theorem RowMatch.sknp (x : Reg) : RowMatch.Statement (.sknp x) :=
  by
    refine RowMatch.of_row 24 (by decide) ?_ ?_ ?_ ?_ ?_
    · change groupOf _ &&& 0xF#4 = 0xE#4; simp [encode]
    · change xOf _ &&& 0x0#4 = 0x0#4; simp [encode]
    · change yOf _ &&& 0xF#4 = 0xA#4; simp [encode]
    · change nOf _ &&& 0xF#4 = 0x1#4; simp [encode]
    · change Instr.sknp (xOf (encode (.sknp x))) = _; simp [encode]

theorem RowMatch.ldVxDt (x : Reg) : RowMatch.Statement (.ldVxDt x) :=
  by
    refine RowMatch.of_row 25 (by decide) ?_ ?_ ?_ ?_ ?_
    · change groupOf _ &&& 0xF#4 = 0xF#4; simp [encode]
    · change xOf _ &&& 0x0#4 = 0x0#4; simp [encode]
    · change yOf _ &&& 0xF#4 = 0x0#4; simp [encode]
    · change nOf _ &&& 0xF#4 = 0x7#4; simp [encode]
    · change Instr.ldVxDt (xOf (encode (.ldVxDt x))) = _; simp [encode]

theorem RowMatch.ldDtVx (x : Reg) : RowMatch.Statement (.ldDtVx x) :=
  by
    refine RowMatch.of_row 26 (by decide) ?_ ?_ ?_ ?_ ?_
    · change groupOf _ &&& 0xF#4 = 0xF#4; simp [encode]
    · change xOf _ &&& 0x0#4 = 0x0#4; simp [encode]
    · change yOf _ &&& 0xF#4 = 0x1#4; simp [encode]
    · change nOf _ &&& 0xF#4 = 0x5#4; simp [encode]
    · change Instr.ldDtVx (xOf (encode (.ldDtVx x))) = _; simp [encode]

theorem RowMatch.ldStVx (x : Reg) : RowMatch.Statement (.ldStVx x) :=
  by
    refine RowMatch.of_row 27 (by decide) ?_ ?_ ?_ ?_ ?_
    · change groupOf _ &&& 0xF#4 = 0xF#4; simp [encode]
    · change xOf _ &&& 0x0#4 = 0x0#4; simp [encode]
    · change yOf _ &&& 0xF#4 = 0x1#4; simp [encode]
    · change nOf _ &&& 0xF#4 = 0x8#4; simp [encode]
    · change Instr.ldStVx (xOf (encode (.ldStVx x))) = _; simp [encode]

theorem RowMatch.ldVxK (x : Reg) : RowMatch.Statement (.ldVxK x) :=
  by
    refine RowMatch.of_row 28 (by decide) ?_ ?_ ?_ ?_ ?_
    · change groupOf _ &&& 0xF#4 = 0xF#4; simp [encode]
    · change xOf _ &&& 0x0#4 = 0x0#4; simp [encode]
    · change yOf _ &&& 0xF#4 = 0x0#4; simp [encode]
    · change nOf _ &&& 0xF#4 = 0xA#4; simp [encode]
    · change Instr.ldVxK (xOf (encode (.ldVxK x))) = _; simp [encode]

theorem RowMatch.addI (x : Reg) : RowMatch.Statement (.addI x) :=
  by
    refine RowMatch.of_row 29 (by decide) ?_ ?_ ?_ ?_ ?_
    · change groupOf _ &&& 0xF#4 = 0xF#4; simp [encode]
    · change xOf _ &&& 0x0#4 = 0x0#4; simp [encode]
    · change yOf _ &&& 0xF#4 = 0x1#4; simp [encode]
    · change nOf _ &&& 0xF#4 = 0xE#4; simp [encode]
    · change Instr.addI (xOf (encode (.addI x))) = _; simp [encode]

theorem RowMatch.ldF (x : Reg) : RowMatch.Statement (.ldF x) :=
  by
    refine RowMatch.of_row 30 (by decide) ?_ ?_ ?_ ?_ ?_
    · change groupOf _ &&& 0xF#4 = 0xF#4; simp [encode]
    · change xOf _ &&& 0x0#4 = 0x0#4; simp [encode]
    · change yOf _ &&& 0xF#4 = 0x2#4; simp [encode]
    · change nOf _ &&& 0xF#4 = 0x9#4; simp [encode]
    · change Instr.ldF (xOf (encode (.ldF x))) = _; simp [encode]

theorem RowMatch.ldB (x : Reg) : RowMatch.Statement (.ldB x) :=
  by
    refine RowMatch.of_row 31 (by decide) ?_ ?_ ?_ ?_ ?_
    · change groupOf _ &&& 0xF#4 = 0xF#4; simp [encode]
    · change xOf _ &&& 0x0#4 = 0x0#4; simp [encode]
    · change yOf _ &&& 0xF#4 = 0x3#4; simp [encode]
    · change nOf _ &&& 0xF#4 = 0x3#4; simp [encode]
    · change Instr.ldB (xOf (encode (.ldB x))) = _; simp [encode]

theorem RowMatch.storeRegs (x : Reg) : RowMatch.Statement (.storeRegs x) :=
  by
    refine RowMatch.of_row 32 (by decide) ?_ ?_ ?_ ?_ ?_
    · change groupOf _ &&& 0xF#4 = 0xF#4; simp [encode]
    · change xOf _ &&& 0x0#4 = 0x0#4; simp [encode]
    · change yOf _ &&& 0xF#4 = 0x5#4; simp [encode]
    · change nOf _ &&& 0xF#4 = 0x5#4; simp [encode]
    · change Instr.storeRegs (xOf (encode (.storeRegs x))) = _; simp [encode]

theorem RowMatch.loadRegs (x : Reg) : RowMatch.Statement (.loadRegs x) :=
  by
    refine RowMatch.of_row 33 (by decide) ?_ ?_ ?_ ?_ ?_
    · change groupOf _ &&& 0xF#4 = 0xF#4; simp [encode]
    · change xOf _ &&& 0x0#4 = 0x0#4; simp [encode]
    · change yOf _ &&& 0xF#4 = 0x6#4; simp [encode]
    · change nOf _ &&& 0xF#4 = 0x5#4; simp [encode]
    · change Instr.loadRegs (xOf (encode (.loadRegs x))) = _; simp [encode]

end Sys2Proof.Laws
end

