-- ==== Sys2Proof/Laws/Step.lean ====
section
/-! SUPPORT. What a step can do: one inversion lemma for each part of it. -/

namespace Sys2Proof.Machine

/-- In `Running` a step is the close transition or a tick step. -/
theorem step_running {s : State} (h : s.status = .running) :
    (s.event = .close ∧ step s = .next s.takeEvent.close) ∨ (s.event ≠ .close ∧ step s = tick s.takeEvent) := by
  simp only [step, h, runningStep]
  cases s.event <;> simp

/-- In `WaitKey` a step is the key event, the abort, or the wait going on. -/
theorem step_waitKey {s : State} (h : s.status = .waitKey) :
    (∃ k, s.event = .key k ∧ step s = .next (s.takeEvent.keyArrives k)) ∨
    (s.event = .close ∧ step s = .next s.takeEvent.close) ∨
    (s.event = .idle ∧ step s = .next s.takeEvent) := by
  simp only [step, h, waitStep]
  cases s.event <;> simp

/-- A step with a next state starts in `Running` or `WaitKey`. -/
theorem status_of_step {s t : State} (h : step s = .next t) : s.status = .running ∨ s.status = .waitKey := by
  cases hs : s.status <;> simp_all [step]

/-- The fetch: one opcode, or the lowest address outside memory. -/
theorem State.fetch_cases (s : State) :
    (s.pc.toNat + 2 ≤ memSize ∧
      s.fetch = .ok (opcodeOfBytes (Memory.read s.mem s.pc.toNat) (Memory.read s.mem (s.pc.toNat + 1)))) ∨
    (memSize < s.pc.toNat + 2 ∧ s.fetch = .error (max s.pc.toNat memSize)) := by
  by_cases h : s.pc.toNat + 2 ≤ memSize
  · exact .inl ⟨h, by simp [State.fetch, (firstOutside_eq_none s.pc.toNat 2).2 (.inr h)]⟩
  · exact .inr ⟨by omega, by
      simp [State.fetch, firstOutside_eq_some (base := s.pc.toNat) (len := 2) (by decide) (by omega)]⟩

/-- The fetch looks at `pc` and memory only. -/
theorem State.fetch_congr {s t : State} (hp : t.pc = s.pc) (hm : t.mem = s.mem) : t.fetch = s.fetch := by
  simp [State.fetch, hp, hm]

/-- A tick step with a next state: a fetch fault, an illegal word, or a handler that answered. -/
theorem tick_cases {s t : State} (h : tick s = .next t) :
    (∃ a, s.fetch = .error a ∧ t = (s.countDown.raise (.memoryBounds a)).endTick) ∨
    (∃ w r, s.fetch = .ok w ∧ decodeWord s.params.decodeStrict w = .error r ∧
      t = (s.countDown.raise (.decodeError w)).endTick) ∨
    (∃ w i u, s.fetch = .ok w ∧ decodeWord s.params.decodeStrict w = .ok i ∧ exec i s.countDown = .next u ∧
      t = u.endTick) := by
  have hf : s.countDown.fetch = s.fetch := State.fetch_congr rfl rfl
  unfold tick fetchAndExecute at h
  rw [hf] at h
  cases hfetch : s.fetch with
  | error a =>
    rw [hfetch] at h
    simp only [endTickResult, Host.Outcome.next.injEq] at h
    exact .inl ⟨a, rfl, h.symm⟩
  | ok w =>
    rw [hfetch] at h
    simp only [State.countDown_params] at h
    cases hdec : decodeWord s.params.decodeStrict w with
    | error r =>
      rw [hdec] at h
      simp only [endTickResult, Host.Outcome.next.injEq] at h
      exact .inr (.inl ⟨w, r, rfl, hdec, h.symm⟩)
    | ok i =>
      rw [hdec] at h
      dsimp only at h
      cases he : exec i s.countDown with
      | next u =>
        rw [he] at h
        simp only [endTickResult, Host.Outcome.next.injEq] at h
        exact .inr (.inr ⟨w, i, u, rfl, hdec, he, h.symm⟩)
      | fault r => rw [he] at h; simp [endTickResult] at h
      | refused r => rw [he] at h; simp [endTickResult] at h

/-- A tick step whose word decodes is the handler on the state whose timers have counted down, then the end of the
tick. -/
theorem tick_of_decode {s : State} {w : Word} {i : Instr} (hf : s.fetch = .ok w)
    (hd : decodeWord s.params.decodeStrict w = .ok i) : tick s = endTickResult (exec i s.countDown) := by
  have hf' : s.countDown.fetch = .ok w := (State.fetch_congr rfl rfl).trans hf
  simp [tick, fetchAndExecute, hf', hd]

/-- A faulted state ends its tick unchanged. -/
@[simp] theorem State.endTick_raise (s : State) (c : FaultCause) : (s.raise c).endTick = s.raise c := by
  simp [State.endTick]

/-- What a handler does to memory: nothing, or a block store inside it at `i`. -/
theorem exec_mem {i : Instr} {s t : State} (h : exec i s = .next t) :
    t.mem = s.mem ∨ ∃ bs : List Byte, s.i.toNat + bs.length ≤ memSize ∧
      t.mem = Memory.writeBytes s.mem s.i.toNat bs := by
  cases i
  case ret =>
    rcases execRet_cases s with ⟨_, e⟩ | ⟨_, _, e⟩ | ⟨_, e⟩ <;> simp_all [exec]
    all_goals subst h; simp
  case call nnn =>
    rcases execCall_cases s nnn with ⟨_, e⟩ | ⟨_, e⟩ | ⟨_, e⟩ <;> simp_all [exec]
    all_goals subst h; simp
  case drw x y n =>
    simp only [exec, execDrw, Host.Outcome.next.injEq] at h
    subst h
    left
    rcases State.bounded_cases s (s.dataAddr 0) n.toNat
      (s.drawn (blitRows (s.fb, false) (s.getV x).toNat (s.getV y).toNat (s.spriteRows n))) with ⟨e, _⟩ | ⟨e, _⟩
    · rw [e, State.drawn]; split <;> simp
    · rw [e]; simp
  case skp x =>
    simp only [exec, execSkp, Host.Outcome.next.injEq] at h
    subst h
    rcases State.skipOnKey_cases s (s.getV x) true with ⟨_, e⟩ | ⟨_, e⟩ <;> simp [e]
  case sknp x =>
    simp only [exec, execSknp, Host.Outcome.next.injEq] at h
    subst h
    rcases State.skipOnKey_cases s (s.getV x) false with ⟨_, e⟩ | ⟨_, e⟩ <;> simp [e]
  case ldB x =>
    simp only [exec, execLdB, Host.Outcome.next.injEq] at h
    subst h
    rcases State.bounded_cases s (s.dataAddr 0) 3 (s.store (s.dataAddr 0) (bcdDigits (s.getV x))).advance
      with ⟨e, hb⟩ | ⟨e, _⟩
    · exact .inr ⟨bcdDigits (s.getV x), by simpa [bcdDigits, State.dataAddr] using hb, by
        rw [e]; simp [State.dataAddr]⟩
    · exact .inl (by rw [e]; simp)
  case storeRegs x =>
    simp only [exec, execStoreRegs, Host.Outcome.next.injEq] at h
    subst h
    rcases State.bounded_cases s (s.dataAddr 0) (x.toNat + 1) (s.store (s.dataAddr 0) (s.getBlock x)).advance
      with ⟨e, hb⟩ | ⟨e, _⟩
    · exact .inr ⟨s.getBlock x, by simpa [State.length_getBlock, State.dataAddr] using hb, by
        rw [e]; simp [State.dataAddr]⟩
    · exact .inl (by rw [e]; simp)
  case loadRegs x =>
    simp only [exec, execLoadRegs, Host.Outcome.next.injEq] at h
    subst h
    rcases State.bounded_cases s (s.dataAddr 0) (x.toNat + 1)
      (s.setBlock x (Memory.readBytes s.mem (s.dataAddr 0) (x.toNat + 1))).advance with ⟨e, _⟩ | ⟨e, _⟩
    · exact .inl (by rw [e]; simp)
    · exact .inl (by rw [e]; simp)
  all_goals
    left
    injection h with h
    subst h
    rfl

/-- A handler's memory stays in the canonical form. -/
theorem exec_wf {i : Instr} {s t : State} (h : exec i s = .next t) (hm : Memory.wf s.mem) : Memory.wf t.mem := by
  rcases exec_mem h with e | ⟨bs, hb, e⟩
  · rwa [e]
  · rw [e]; exact Memory.wf_writeBytes bs hm (.inr hb)

end Sys2Proof.Machine
end

