-- ==== Sys2Proof/Tests/Slice0.lean ====
section
/-! SUPPORT. Tests. Words are written out bit by bit from the patterns of Table R100; the expected results of the
steps are the vectors T<n> and S<n> of spec/95_test_vectors.md, named beside each. `test_witness_…` theorems show states
and operands that meet the hypotheses of the obligation they name. -/

namespace Sys2Proof.Tests

open Sys2Proof Sys2Proof.Machine

/-! ## Well-formedness -/

/-- S11: 3584 bytes are a ROM, 3585 are not. -/
theorem test_rom_length : romWellFormed (List.replicate 3584 0) = true ∧ romWellFormed (List.replicate 3585 0) = false := by
  rw [romWellFormed_iff, ← Bool.not_eq_true, romWellFormed_iff, List.length_replicate, List.length_replicate]
  decide

/-- S11: a ROM of 3585 bytes never starts. -/
theorem test_boot_refuses_long_rom : boot BootParams.default (List.replicate 3585 0) = none := by
  rw [boot, if_neg]
  rw [romWellFormed_iff, List.length_replicate]
  decide

/-- R93: the largest field values are legal. -/
theorem test_wellFormed_extremes :
    (Instr.jp 0xFFF).wellFormed = true ∧ (Instr.drw 0xF 0xF 0xF).wellFormed = true ∧
    (Instr.ldByte 0xF 0xFF).wellFormed = true := by decide

/-- The default of the font has its 80 bytes and stands at address 0 after the boot sequence too. -/
theorem test_boot_is_reset : boot BootParams.default [] = some State.reset := by decide +kernel

/-! ## Decoding: every constructor, from a word written out in bits -/

theorem test_decode_flow :
    decodeWord true 0b0000000011101110 = .ok .ret ∧ decodeWord true 0b0001101010111100 = .ok (.jp 0xABC) ∧
    decodeWord true 0b0010101010111100 = .ok (.call 0xABC) ∧ decodeWord true 0b1011101010111100 = .ok (.jpV0 0xABC) := by
  decide

theorem test_decode_skip :
    decodeWord true 0b0011101001000010 = .ok (.seByte 0xA 0x42) ∧
    decodeWord true 0b0100101001000010 = .ok (.sneByte 0xA 0x42) ∧
    decodeWord true 0b0101000100100000 = .ok (.seReg 1 2) ∧ decodeWord true 0b1001000100100000 = .ok (.sneReg 1 2) := by
  decide

theorem test_decode_immediate :
    decodeWord true 0b0110101001111111 = .ok (.ldByte 0xA 0x7F) ∧
    decodeWord true 0b0111101011111111 = .ok (.addByte 0xA 0xFF) ∧ decodeWord true 0b1010111111111110 = .ok (.ldI 0xFFE) := by
  decide

theorem test_decode_alu :
    decodeWord true 0b1000000100100000 = .ok (.mov 1 2) ∧ decodeWord true 0b1000000100100001 = .ok (.or 1 2) ∧
    decodeWord true 0b1000000100100010 = .ok (.and 1 2) ∧ decodeWord true 0b1000000100100011 = .ok (.xor 1 2) ∧
    decodeWord true 0b1000000100100100 = .ok (.add 1 2) ∧ decodeWord true 0b1000000100100101 = .ok (.sub 1 2) ∧
    decodeWord true 0b1000000100100110 = .ok (.shr 1 2) ∧ decodeWord true 0b1000000100100111 = .ok (.subn 1 2) ∧
    decodeWord true 0b1000000100101110 = .ok (.shl 1 2) := by
  decide

theorem test_decode_random_display_keypad :
    decodeWord true 0b0000000011100000 = .ok .cls ∧ decodeWord true 0b1100001100001111 = .ok (.rnd 3 0x0F) ∧
    decodeWord true 0b1101000100101111 = .ok (.drw 1 2 0xF) ∧ decodeWord true 0b1110001110011110 = .ok (.skp 3) ∧
    decodeWord true 0b1110001110100001 = .ok (.sknp 3) ∧ decodeWord true 0b1111010100001010 = .ok (.ldVxK 5) := by
  decide

theorem test_decode_timers_memory :
    decodeWord true 0b1111010100000111 = .ok (.ldVxDt 5) ∧ decodeWord true 0b1111010100010101 = .ok (.ldDtVx 5) ∧
    decodeWord true 0b1111010100011000 = .ok (.ldStVx 5) ∧ decodeWord true 0b1111010100011110 = .ok (.addI 5) ∧
    decodeWord true 0b1111010100101001 = .ok (.ldF 5) ∧ decodeWord true 0b1111010100110011 = .ok (.ldB 5) ∧
    decodeWord true 0b1111010101010101 = .ok (.storeRegs 5) ∧ decodeWord true 0b1111010101100101 = .ok (.loadRegs 5) := by
  decide

/-- T88, T89, T137, T138, T190 to T202: the words the strict decoder rejects. -/
theorem test_decode_rejects :
    [0x0000, 0x00E1, 0x01E0, 0x0FEE, 0x0123, 0x5121, 0x912F, 0x8128, 0x812F, 0x8009, 0xE000, 0xE300, 0xE39F, 0xF000,
      0xF1FF, 0xF166, 0xFFFF].all (fun w => decodeWord true w == .error (.unrecognizedOpcode w)) = true := by decide

/-- T192, T193, T195: what the loose decoder of R108 makes of three of them. -/
theorem test_decode_loose :
    decodeWord false 0x01E0 = .ok .cls ∧ decodeWord false 0x0FEE = .ok .ret ∧ decodeWord false 0x5121 = .ok (.seReg 1 2) := by
  decide

/-- R90: one byte is no instruction; R67: the first byte is the high one. -/
theorem test_decode_bytes :
    decodeBytes true [0x12] = .error .truncated ∧ decodeBytes true [0x12, 0x04, 0x99] = .ok (.jp 0x204, [0x99]) := by decide

/-- The encoder on words of Part 3, P1: `LD V0,0x05` is `60 05`, `ADD V1,V0` is `81 04`. -/
theorem test_encode_bytes :
    encodeBytes (.ldByte 0 5) = [0x60, 0x05] ∧ encodeBytes (.add 1 0) = [0x81, 0x04] ∧ encodeBytes .ret = [0x00, 0xEE] := by
  decide

/-! ## One step -/

/-- The reset state with the word `w` at its `pc`. -/
def start (w : Nat) : State := State.reset.withFetchWord 16 w

/-- The same with the registers listed. -/
def startV (w : Nat) (vs : List (Reg × Byte)) : State := vs.foldl (fun s p => s.setV p.1 p.2) (start w)

/-- The step answers a state of which `p` holds. -/
def gives (s : State) (p : State → Bool) : Bool :=
  match step s with
  | .next t => p t
  | .fault _ | .refused _ => false

/-- The step takes the fault `c`, and `pc` and every register keep their values (R258). -/
def raises (s : State) (c : FaultCause) : Bool :=
  gives s (fun t => t.status == .faulted && t.fault == some ⟨c, s.pc⟩ && t.pc == s.pc && t.v == s.v && t.mem == s.mem)

/-- The pixels that are lit, column and row, in the order of the vectors. -/
def lit (s : State) : List (Nat × Nat) :=
  (List.range 64).flatMap (fun c => (List.range 32).filterMap (fun r => if s.fb.pixel c r then some (c, r) else none))

/-- T3, T2. -/
theorem test_jp : gives (start 0x1FFF) (fun t => t.pc == 0x0FFF) = true ∧
    gives (start 0x1200) (fun t => t.pc == 0x0200) = true := by decide
/-- T12, T13. -/
theorem test_jpV0 : gives (startV 0xBFFF [(0, 0xFF)]) (fun t => t.pc == 0x10FE) = true ∧
    gives (startV 0xB2F0 [(2, 0x55)]) (fun t => t.pc == 0x02F0) = true := by decide
/-- T5. -/
theorem test_call : gives ({ State.reset with pc := 0x0204 }.withFetchWord 16 0x2210)
    (fun t => t.sp == 1 && t.stack[1] == 0x0206 && t.pc == 0x0210) = true := by decide
/-- T6, T7: the last usable slot, then the overflow. -/
theorem test_call_bound : gives { start 0x2300 with sp := 14 } (fun t => t.sp == 15 && t.stack[15] == 0x0202) = true ∧
    raises { start 0x2300 with sp := 15 } .stackOverflow = true := by decide
/-- T8. -/
theorem test_ret : gives ({ State.reset with pc := 0x0212, sp := 1, stack := State.reset.stack.set 1 0x0206 }.withFetchWord
    16 0x00EE) (fun t => t.sp == 0 && t.pc == 0x0206 && t.stack[1] == 0x0206) = true := by decide
/-- T10, T9. -/
theorem test_ret_bound :
    gives { start 0x00EE with sp := 15, stack := State.reset.stack.set 15 0x0ABC } (fun t => t.sp == 14 && t.pc == 0x0ABC) = true ∧
    raises (start 0x00EE) .stackUnderflow = true := by decide

/-- T20, T21, T32. -/
theorem test_seByte : gives (startV 0x3A42 [(10, 0x42)]) (fun t => t.pc == 0x0204) = true ∧
    gives (startV 0x3A42 [(10, 0x43)]) (fun t => t.pc == 0x0202) = true ∧
    gives ({ State.reset with pc := 0x0FFC }.withFetchWord 16 0x3000) (fun t => t.pc == 0x1000) = true := by decide
/-- T22, T23. -/
theorem test_sneByte : gives (startV 0x4A42 [(10, 0x42)]) (fun t => t.pc == 0x0202) = true ∧
    gives (startV 0x4A42 [(10, 0x43)]) (fun t => t.pc == 0x0204) = true := by decide
/-- T24, T25. -/
theorem test_seReg : gives (startV 0x5120 [(1, 7), (2, 7)]) (fun t => t.pc == 0x0204) = true ∧
    gives (startV 0x5120 [(1, 7), (2, 8)]) (fun t => t.pc == 0x0202) = true := by decide
/-- T27, T28. -/
theorem test_sneReg : gives (startV 0x9120 [(1, 7), (2, 8)]) (fun t => t.pc == 0x0204) = true ∧
    gives (startV 0x9120 [(1, 7), (2, 7)]) (fun t => t.pc == 0x0202) = true := by decide

/-- T40. -/
theorem test_ldByte : gives (start 0x6A7F) (fun t => t.getV 10 == 0x7F && t.pc == 0x0202) = true := by decide
/-- T42, T45: wraps, and is no flag. -/
theorem test_addByte : gives (startV 0x7A01 [(10, 0xFF)]) (fun t => t.getV 10 == 0 && t.getV 15 == 0) = true ∧
    gives (startV 0x7F02 [(15, 0xFF)]) (fun t => t.getV 15 == 1 && t.pc == 0x0202) = true := by decide
/-- T46. -/
theorem test_ldI : gives (start 0xAFFF) (fun t => t.i == 0x0FFF && t.pc == 0x0202) = true := by decide

/-- T50, T51. -/
theorem test_mov : gives (startV 0x8120 [(1, 0x11), (2, 0x22)]) (fun t => t.getV 1 == 0x22 && t.getV 2 == 0x22) = true ∧
    gives (startV 0x8EF0 [(15, 1)]) (fun t => t.getV 14 == 1) = true := by decide
/-- T52, T53, T54. -/
theorem test_logic :
    gives (startV 0x8121 [(1, 0xF0), (2, 0x0F), (15, 1)]) (fun t => t.getV 1 == 0xFF && t.getV 15 == 1) = true ∧
    gives (startV 0x8122 [(1, 0xF3), (2, 0x3F), (15, 1)]) (fun t => t.getV 1 == 0x33 && t.getV 15 == 1) = true ∧
    gives (startV 0x8123 [(1, 0xFF), (2, 0x0F), (15, 1)]) (fun t => t.getV 1 == 0xF0 && t.getV 15 == 1) = true := by decide
/-- T56, T57. -/
theorem test_add : gives (startV 0x8104 [(0, 0x64), (1, 0xC8)]) (fun t => t.getV 1 == 0x2C && t.getV 15 == 1) = true ∧
    gives (startV 0x8124 [(1, 0x80), (2, 0x7F), (15, 1)]) (fun t => t.getV 1 == 0xFF && t.getV 15 == 0) = true := by decide
/-- T61, T62, T63: register F as destination and as source. -/
theorem test_add_flag_register : gives (startV 0x8F14 [(1, 2), (15, 0xFF)]) (fun t => t.getV 15 == 1) = true ∧
    gives (startV 0x8F14 [(1, 2), (15, 5)]) (fun t => t.getV 15 == 0) = true ∧
    gives (startV 0x81F4 [(1, 0xFF), (15, 1)]) (fun t => t.getV 1 == 0 && t.getV 15 == 1) = true := by decide
/-- T64, T66. -/
theorem test_sub : gives (startV 0x8125 [(1, 3), (2, 5), (15, 1)]) (fun t => t.getV 1 == 0xFE && t.getV 15 == 0) = true ∧
    gives (startV 0x8125 [(1, 5), (2, 5)]) (fun t => t.getV 1 == 0 && t.getV 15 == 1) = true := by decide
/-- T69, T70. -/
theorem test_sub_flag_register : gives (startV 0x8F15 [(1, 3), (15, 2)]) (fun t => t.getV 15 == 0) = true ∧
    gives (startV 0x8F15 [(1, 3), (15, 9)]) (fun t => t.getV 15 == 1) = true := by decide
/-- T78, T79, T81. -/
theorem test_subn : gives (startV 0x8127 [(1, 5), (2, 3), (15, 1)]) (fun t => t.getV 1 == 0xFE && t.getV 15 == 0) = true ∧
    gives (startV 0x8127 [(1, 3), (2, 5)]) (fun t => t.getV 1 == 2 && t.getV 15 == 1) = true ∧
    gives (startV 0x8F17 [(1, 3), (15, 9)]) (fun t => t.getV 15 == 0) = true := by decide
/-- T71, T75, T77. -/
theorem test_shr : gives (startV 0x8406 [(4, 5)]) (fun t => t.getV 4 == 2 && t.getV 15 == 1) = true ∧
    gives (startV 0x8456 [(4, 4), (5, 0xFF), (15, 1)]) (fun t => t.getV 4 == 2 && t.getV 15 == 0) = true ∧
    gives (startV 0x8F06 [(15, 2)]) (fun t => t.getV 15 == 0) = true := by decide
/-- T82, T85, T87. -/
theorem test_shl : gives (startV 0x840E [(4, 0x81)]) (fun t => t.getV 4 == 2 && t.getV 15 == 1) = true ∧
    gives (startV 0x84FE [(4, 1), (15, 0xFF)]) (fun t => t.getV 4 == 2 && t.getV 15 == 0) = true ∧
    gives (startV 0x8F0E [(15, 0x41)]) (fun t => t.getV 15 == 0) = true := by decide

/-- A supply of random bytes or key samples. -/
def withRand (s : State) (b : Byte) : State := { s with env := { s.env with randIn := [b] } }

/-- The sample in which exactly the keys of `ks` are down. -/
def withKeys (s : State) (ks : BitVec 16) : State := { s with env := { s.env with keysIn := [ks] } }

/-- The event at the coming boundary. -/
def withEvent (s : State) (e : EnvEvent) : State := { s with env := { s.env with events := [e] } }

/-- T100, T101. -/
theorem test_rnd :
    gives (withRand (start 0xC30F) 0xA7) (fun t => t.getV 3 == 0x07 && t.env.randDraws == 1 && t.env.randIn == []) = true ∧
    gives (withRand (startV 0xC300 [(3, 0x55)]) 0xFF) (fun t => t.getV 3 == 0) = true := by decide

/-- The reset state with a sprite at 0x0210 and the word at 0x0200. -/
def sprite (w : Nat) (vs : List (Reg × Byte)) (rows : List Byte) : State :=
  { (startV w vs).store 0x210 rows with i := 0x0210 }

/-- T110. -/
theorem test_cls :
    gives { startV 0x00E0 [(15, 1)] with fb := (Framebuffer.blank.flip 0 0).flip 63 31 }
      (fun t => t.fb == Framebuffer.blank && t.trace == [.clear] && t.getV 15 == 1 && t.pc == 0x0202) = true := by decide
/-- T112: wrap at the right and the bottom edge. -/
theorem test_drw_wraps : gives (sprite 0xD012 [(0, 0x3C), (1, 0x1F)] [0xFF, 0x81])
    (fun t => lit t == [(0, 31), (1, 31), (2, 31), (3, 0), (3, 31), (60, 0), (60, 31), (61, 31), (62, 31), (63, 31)] &&
      t.getV 15 == 0 && t.trace == []) = true := by decide
/-- T113, T122: a collision; `x = y = 15` reads the old `VF`. -/
theorem test_drw_collides : gives { sprite 0xD011 [] [0xC0] with fb := Framebuffer.blank.flip 0 0 }
      (fun t => t.fb == Framebuffer.blank.flip 1 0 && t.getV 15 == 1 && t.trace == [.present]) = true ∧
    gives (sprite 0xDFF1 [(15, 5)] [0x80]) (fun t => t.fb == Framebuffer.blank.flip 5 5 && t.getV 15 == 0) = true := by
  decide
/-- T118, T120, T121: no rows never fault; a row outside memory does, with nothing drawn. -/
theorem test_drw_bounds : gives { startV 0xD010 [(15, 1)] with i := 0xFFFF } (fun t => t.getV 15 == 0) = true ∧
    raises { startV 0xD012 [(15, 1)] with i := 0x0FFF } (.memoryBounds 0x1000) = true ∧
    raises { start 0xD011 with i := 0x1234 } (.memoryBounds 0x1234) = true := by decide

/-- T130, T131, T134. -/
theorem test_skp : gives (withKeys (startV 0xE39E [(3, 0x0A)]) 0x0400) (fun t => t.pc == 0x0204) = true ∧
    gives (withKeys (startV 0xE39E [(3, 0x0A)]) 0x0800) (fun t => t.pc == 0x0202) = true ∧
    raises (startV 0xE39E [(3, 0x10)]) (.keyIndex 0x10) = true := by decide
/-- T132, T133, T135. -/
theorem test_sknp : gives (withKeys (startV 0xE3A1 [(3, 0x0A)]) 0x0400) (fun t => t.pc == 0x0202) = true ∧
    gives (withKeys (startV 0xE3A1 [(3, 0x0A)]) 0x0000) (fun t => t.pc == 0x0204) = true ∧
    raises (startV 0xE3A1 [(3, 0xFF)]) (.keyIndex 0xFF) = true := by decide
/-- T139. -/
theorem test_ldVxK : gives ({ State.reset with pc := 0x0230, dt := 5 }.withFetchWord 16 0xF50A)
    (fun t => t.status == .waitKey && t.waitX == 5 && t.dt == 4 && t.pc == 0x0230) = true := by decide

/-- The state after T139. -/
def waiting : State := { State.reset with pc := 0x0230, dt := 4, status := .waitKey, waitX := 5 }

/-- T140, T141, and R212 while nothing arrives. -/
theorem test_wait_ends :
    gives (withEvent waiting (.key 7))
      (fun t => t.status == .running && t.getV 5 == 7 && t.pc == 0x0232 && t.dt == 4) = true ∧
    gives (withEvent waiting .close) (fun t => t.status == .closing && t.pc == 0x0230 && t.dt == 4) = true ∧
    step waiting = .next waiting := ⟨by decide, by decide, rfl⟩
/-- R128: the close transition runs no tick. -/
theorem test_close : gives { withEvent (start 0x6A7F) .close with dt := 9 }
    (fun t => t.status == .closing && t.pc == 0x0200 && t.getV 10 == 0 && t.dt == 9) = true := by decide

/-- T152, T153, T154. -/
theorem test_ldVxDt : gives { start 0xF307 with dt := 0x3C } (fun t => t.getV 3 == 0x3B && t.dt == 0x3B) = true ∧
    gives { startV 0xF307 [(3, 0x77)] with dt := 1 } (fun t => t.getV 3 == 0 && t.dt == 0) = true ∧
    gives (startV 0xF307 [(3, 0x77)]) (fun t => t.getV 3 == 0 && t.dt == 0) = true := by decide
/-- T155. -/
theorem test_ldDtVx : gives { startV 0xF315 [(3, 0x10)] with dt := 0x80, st := 2 }
    (fun t => t.dt == 0x10 && t.st == 1 && t.pc == 0x0202) = true := by decide
/-- T151. -/
theorem test_ldStVx : gives (startV 0xF318 [(3, 0x3C)]) (fun t => t.st == 0x3C && t.dt == 0 && t.pc == 0x0202) = true := by decide

/-- T161, T162. -/
theorem test_addI : gives { startV 0xF21E [(2, 1)] with i := 0x0FFF } (fun t => t.i == 0x1000 && t.getV 15 == 0) = true ∧
    gives { startV 0xF21E [(2, 1)] with i := 0xFFFF } (fun t => t.i == 0 && t.getV 15 == 0) = true := by decide
/-- T165, T167. -/
theorem test_ldF : gives (startV 0xF029 [(0, 0x0F)]) (fun t => t.i == 0x004B) = true ∧
    gives (startV 0xF029 [(0, 0xFF)]) (fun t => t.i == 0x04FB) = true := by decide
/-- T168, S8: 123 at 100, and the fourth byte is not written. -/
theorem test_ldB : gives { startV 0xF033 [(0, 0x7B)] with i := 0x0064 }
    (fun t => Memory.readBytes t.mem 0x64 4 == [1, 2, 3, 0] && t.i == 0x0064) = true := by decide
/-- T172, T173. -/
theorem test_ldB_bound : gives { startV 0xF033 [(0, 0xFF)] with i := 0x0FFD }
      (fun t => Memory.readBytes t.mem 0xFFD 3 == [2, 5, 5]) = true ∧
    raises { startV 0xF033 [(0, 0xFF)] with i := 0x0FFE } (.memoryBounds 0x1000) = true := by decide
/-- T174. -/
theorem test_storeRegs : gives { startV 0xF155 [(0, 0x12), (1, 0x0A), (2, 0x99)] with i := 0x0300 }
    (fun t => Memory.readBytes t.mem 0x300 3 == [0x12, 0x0A, 0] && t.i == 0x0300) = true := by decide
/-- T177. -/
theorem test_storeRegs_bound : raises { start 0xFF55 with i := 0x0FF1 } (.memoryBounds 0x1000) = true := by decide
/-- T178, T179, T182. -/
theorem test_loadRegs :
    gives { (startV 0xF265 [(3, 0x77)]).store 0x300 [2, 3, 4, 5] with i := 0x0300 }
      (fun t => t.v.toList.take 4 == [2, 3, 4, 0x77] && t.i == 0x0300) = true ∧
    gives (start 0xF065) (fun t => t.getV 0 == 0xF0) = true ∧
    gives { start 0xF165 with i := 0x0200 } (fun t => t.getV 0 == 0xF1 && t.getV 1 == 0x65) = true := by decide
/-- T180, T181. -/
theorem test_loadRegs_bound : raises { start 0xFF65 with i := 0x0FF1 } (.memoryBounds 0x1000) = true ∧
    raises { start 0xF065 with i := 0x1000 } (.memoryBounds 0x1000) = true := by decide

/-- T4, T203: a fetch outside memory. -/
theorem test_fetch_bound : raises { State.reset with pc := 0x0FFF } (.memoryBounds 0x1000) = true ∧
    raises { State.reset with pc := 0x10FE } (.memoryBounds 0x10FE) = true := by decide
/-- T204: an odd `pc`. -/
theorem test_fetch_odd : gives ({ State.reset with pc := 0x0201 }.withFetchWord 16 0xA123)
    (fun t => t.i == 0x0123 && t.pc == 0x0203) = true := by decide
/-- T156, T158: every tick counts both timers, a faulting one too. -/
theorem test_countdown : gives { start 0x1200 with dt := 1, st := 0xFF } (fun t => t.dt == 0 && t.st == 0xFE) = true ∧
    gives { start 0x0000 with dt := 9, st := 1 }
      (fun t => t.dt == 8 && t.st == 0 && t.fault == some ⟨.decodeError 0x0000, 0x0200⟩) = true := by decide
/-- T190: what the machine does from reset with no ROM (log entry 3). -/
theorem test_reset_step : raises State.reset (.decodeError 0x0000) = true := by decide
/-- R126: the two terminal states. -/
theorem test_terminal : step { State.reset with status := .faulted } = .fault .machineFaulted ∧
    step { State.reset with status := .closing } = .fault .machineClosed := ⟨rfl, rfl⟩
/-- R199: under `every_tick` a tick that draws nothing emits `Present`, one that faults does not (log entry 9). -/
theorem test_every_tick :
    gives ((start 0x1200).withPolicy .everyTick) (fun t => t.trace == [.present]) = true ∧
    gives (State.reset.withPolicy .everyTick) (fun t => t.trace == [] && t.status == .faulted) = true := by decide
/-- R108: a state whose parameter selects the loose decoder runs 0x01E0 as `CLS`. -/
theorem test_loose_step :
    gives { start 0x01E0 with params := { decodeStrict := false, presentPolicy := .onCollision } }
      (fun t => t.trace == [.clear]) = true := by decide
/-- The host's numbering: a table word of 16 bits is itself. -/
theorem test_tableWord : decodeTableWord 16 0xD123 = some (.drw 1 2 3) ∧ decodeTableWord 16 0x0123 = none := by decide
/-- R60: writing the reset content unlists the cell, so equal memories are equal data. -/
theorem test_memory_canonical :
    Memory.write (Memory.write [] 0x300 5) 0x300 0 = [] ∧ Memory.write [] 0 0xF0 = [] ∧
    Memory.write (Memory.write [] 0x301 1) 0x300 2 = [(0x300, 2), (0x301, 1)] := by decide

/-! ## Witnesses: states and operands that meet the hypotheses of the obligations, at the boundary values -/

/-- The state of `start` with `sp` and one slot set. -/
def inCall (w : Nat) (sp : Byte) : State := { start w with sp := sp, stack := Vector.replicate 16 0x0ABC }

/-- Every pattern of the table is met, by its own match word (all the `encodesAs` clauses). -/
theorem test_witness_encodesAs : (opcodeTable true).all (fun r => r.mat &&& r.mask == r.mat && r.covers r.mat) = true := by
  decide

theorem test_witness_TableSelectsTheInstruction :
    (opcodeTable true).any (fun r => r.covers 0x85FE) = true ∧ (opcodeTable true).all (fun r => !r.covers 0x0123) = true := by
  decide

theorem test_witness_LooseDecoderExtendsStrict :
    (opcodeTable false).any (fun r => r.covers 0x0FEE) = true ∧ (opcodeTable false).all (fun r => !r.covers 0x8008) = true ∧
    decodeWord true 0x9120 = .ok (.sneReg 1 2) := by decide

theorem test_witness_DecodeOfEncode : (Instr.shl 5 15).wellFormed = true := by decide

theorem test_witness_EncodeOfDecode : decodeWord true 0x85FE = .ok (.shl 5 15) := by decide

theorem test_witness_FetchIsBigEndianAndBounded :
    ({ State.reset with pc := 0xFFE } : State).pc.toNat ≤ 0xFFE ∧ ({ State.reset with pc := 0xFFF } : State).pc.toNat = 0xFFF ∧
    0xFFF < ({ State.reset with pc := 0x1000 } : State).pc.toNat := by decide

/-- Every clause: a handler that answers a next state and one that answers a fault; under `every_tick` a handler that
does not fault and one that does. -/
theorem test_witness_StepRunsDecodedInstruction :
    (Instr.jp 0x204).wellFormed = true ∧ (start 0x1204).ticks ∧ (start 0x1204).fetches (.jp 0x204) ∧
    (∃ t, exec (.jp 0x204) (start 0x1204).ticked = .next t) ∧
    (inCall 0x00EE 16).ticks ∧ (inCall 0x00EE 16).fetches .ret ∧ exec .ret (inCall 0x00EE 16).ticked = .fault .noStackSlot ∧
    ((start 0x1204).withPolicy .everyTick).ticks ∧ ((start 0x1204).withPolicy .everyTick).fetches (.jp 0x204) ∧
    (∃ t, exec (.jp 0x204) ((start 0x1204).withPolicy .everyTick).ticked = .next t ∧
      t.params.presentPolicy = .everyTick ∧ t.status ≠ .faulted) ∧
    ((start 0x00EE).withPolicy .everyTick).ticks ∧ ((start 0x00EE).withPolicy .everyTick).fetches .ret ∧
    ∃ t, exec .ret ((start 0x00EE).withPolicy .everyTick).ticked = .next t ∧
      t.params.presentPolicy = .everyTick ∧ t.status = .faulted :=
  ⟨rfl, by decide, ⟨0x1204, rfl, rfl⟩, ⟨_, rfl⟩, by decide, ⟨0x00EE, rfl, rfl⟩, rfl, by decide, ⟨0x1204, rfl, rfl⟩,
    ⟨_, rfl, by decide, by decide⟩, by decide, ⟨0x00EE, rfl, rfl⟩, ⟨_, rfl, by decide, by decide⟩⟩

theorem test_witness_FetchOutsideMemoryFaults :
    ({ State.reset with pc := 0xFFF } : State).ticks ∧ 0xFFE < ({ State.reset with pc := 0xFFF } : State).pc.toNat := by decide

/-- The second clause is met where a record of an earlier `DecodeError` stands. -/
theorem test_witness_IllegalWordFaults :
    (start 0x8128).ticks ∧ (start 0x8128).fetch = .ok 0x8128 ∧
    decodeWord (start 0x8128).params.decodeStrict 0x8128 = .error (.unrecognizedOpcode 0x8128) ∧
    ∃ t, exec .cls { State.reset with fault := some ⟨.decodeError 0, 0⟩ } = .next t ∧ t.fault = some ⟨.decodeError 0, 0⟩ :=
  ⟨by decide, rfl, rfl, _, rfl, rfl⟩

/-- A tick that fetches neither timer write, one that fetches each, and a transition that is no tick. -/
theorem test_witness_TimersCountDownOncePerTick :
    ((start 0x1200).ticks ∧ (∃ t, step (start 0x1200) = .next t) ∧
      (∀ x, ¬ (start 0x1200).fetches (.ldDtVx x)) ∧ ∀ x, ¬ (start 0x1200).fetches (.ldStVx x)) ∧
    ((start 0xF315).ticks ∧ (∃ t, step (start 0xF315) = .next t) ∧ (start 0xF315).fetches (.ldDtVx 3)) ∧
    ((start 0xF318).ticks ∧ (∃ t, step (start 0xF318) = .next t) ∧ (start 0xF318).fetches (.ldStVx 3)) ∧
    ¬ (withEvent waiting (.key 7)).ticks ∧ ∃ t, step (withEvent waiting (.key 7)) = .next t := by
  have hf : (start 0x1200).fetch = .ok 0x1200 := rfl
  refine ⟨⟨by decide, ⟨_, rfl⟩, ?_, ?_⟩, ⟨by decide, ⟨_, rfl⟩, ⟨0xF315, rfl, rfl⟩⟩,
    ⟨by decide, ⟨_, rfl⟩, ⟨0xF318, rfl, rfl⟩⟩, by decide, ⟨_, rfl⟩⟩
  all_goals
    rintro x ⟨w, hw, hd⟩
    rw [hf] at hw
    cases hw
    cases hd

theorem test_witness_TimerAccessSeesItsOwnTick :
    (start 0xF307).ticks ∧ (start 0xF307).fetches (.ldVxDt 3) ∧ (start 0xF315).ticks ∧ (start 0xF315).fetches (.ldDtVx 3) :=
  ⟨by decide, ⟨0xF307, rfl, rfl⟩, by decide, ⟨0xF315, rfl, rfl⟩⟩

theorem test_witness_CloseChangesOnlyStatus :
    (withEvent State.reset .close).status = .running ∧ (withEvent State.reset .close).event = .close ∧
    (withEvent waiting .close).status = .waitKey ∧ (withEvent waiting .close).event = .close := by decide

theorem test_witness_KeyEventCompletesTheWait :
    (withEvent waiting (.key 15)).status = .waitKey ∧ (withEvent waiting (.key 15)).event = .key 15 := by decide

theorem test_witness_KeyWaitSuspends : waiting.status = .waitKey ∧ waiting.event = .idle := by decide

theorem test_witness_TerminalStatesStop :
    ({ State.reset with status := .closing } : State).status = .closing ∧
    ({ State.reset with status := .faulted } : State).status = .faulted := by decide

/-- One step for each clause: to `Closing`, into the wait, out of it by a key. -/
theorem test_witness_StatusTransitions :
    (∃ t, step (withEvent State.reset .close) = .next t ∧ t.status = .closing) ∧
    (∃ t, step (start 0xF50A) = .next t ∧ t.status = .waitKey) ∧
    ∃ t, step (withEvent waiting (.key 7)) = .next t ∧ t.status = .running :=
  ⟨⟨_, rfl, rfl⟩, ⟨_, rfl, rfl⟩, ⟨_, rfl, rfl⟩⟩

theorem test_witness_FaultsArePrecise :
    (start 0x0000).status = .running ∧ ∃ t, step (start 0x0000) = .next t ∧ t.status = .faulted := ⟨rfl, _, rfl, rfl⟩

/-- One handler for each way a handler can fault, at the boundary of its check. -/
theorem test_witness_HandlersFaultOnlyOnTheirOwnCheck :
    (∃ t, exec .ret State.reset = .next t ∧ t.status = .faulted) ∧
    (∃ t, exec (.call 0) { State.reset with sp := 15 } = .next t ∧ t.status = .faulted) ∧
    (∃ t, exec (.skp 3) (State.reset.setV 3 16) = .next t ∧ t.status = .faulted) ∧
    (∃ t, exec (.drw 0 0 2) { State.reset with i := 0xFFF } = .next t ∧ t.status = .faulted) ∧
    ∃ t, exec (.loadRegs 0) { State.reset with i := 0x1000 } = .next t ∧ t.status = .faulted :=
  ⟨⟨_, rfl, rfl⟩, ⟨_, rfl, rfl⟩, ⟨_, rfl, rfl⟩, ⟨_, rfl, rfl⟩, ⟨_, rfl, rfl⟩⟩

theorem test_witness_DataOutsideMemoryFaults :
    0 < (1 : Nibble).toNat ∧ 0xFFF < ({ State.reset with i := 0x1000 } : State).i.toNat + (1 : Nibble).toNat - 1 ∧
    0xFFF < ({ State.reset with i := 0xFFE } : State).i.toNat + 2 ∧
    0xFFF < ({ State.reset with i := 0xFF1 } : State).i.toNat + (15 : Reg).toNat := by decide

theorem test_witness_StackOverflowAndUnderflow :
    State.reset.sp = 0 ∧ (inCall 0 15).sp = 15 ∧ 15 < (inCall 0 16).sp.toNat := by decide

theorem test_witness_KeyIndexAboveFifteenFaults : 15 < ((State.reset.setV 3 16).getV 3).toNat := by decide

theorem test_witness_GoodIsInvariant : (start 0x1200).good ∧ ∃ t, step (start 0x1200) = .next t := ⟨by decide, _, rfl⟩

theorem test_witness_BootIsGood :
    (∃ s, boot BootParams.default [0x12, 0x00] = some s) ∧ BootParams.default.resetSp.toNat ≤ 15 ∧
    BootParams.default.resetPc.toNat ≤ 0x10FE := ⟨⟨_, rfl⟩, by decide, by decide⟩

theorem test_witness_GoodMachineIsNeverStuck :
    State.reset.good ∧ State.reset.status = .running ∧ waiting.good ∧ waiting.status = .waitKey := by decide

theorem test_witness_ParametersAreFixed : ∃ t, step State.reset = .next t := ⟨_, rfl⟩

/-- The three register columns of Table R42 (`v[x]`, the flag, the block of `LD Vx,[I]`) are each written somewhere. -/
theorem test_witness_register_writes :
    (∃ t, exec (.ldByte 3 7) State.reset = .next t ∧ t.getV 3 ≠ State.reset.getV 3) ∧
    (∃ t, exec (.sub 1 2) State.reset = .next t ∧ t.getV flagReg ≠ State.reset.getV flagReg) ∧
    ∃ t, exec (.loadRegs 2) State.reset = .next t ∧ t.getV 1 ≠ State.reset.getV 1 :=
  ⟨⟨_, rfl, by decide⟩, ⟨_, rfl, by decide⟩, ⟨_, rfl, by decide⟩⟩

/-- A next state for each other clause: `fb`, the stack and `sp`, `i`, `dt`, `st`, memory, the trace, `wait_x`, the
inputs. -/
theorem test_witness_WritesFollowTheAccessMatrix :
    (∃ t, exec (.drw 0 1 5) State.reset = .next t ∧ t.fb ≠ State.reset.fb) ∧
    (∃ t, exec (.call 0x300) State.reset = .next t ∧ t.stack ≠ State.reset.stack ∧ t.sp ≠ State.reset.sp) ∧
    (∃ t, exec (.ldI 0x300) State.reset = .next t ∧ t.i ≠ State.reset.i) ∧
    (∃ t, exec (.ldDtVx 3) (State.reset.setV 3 9) = .next t ∧ t.dt ≠ State.reset.dt) ∧
    (∃ t, exec (.ldStVx 3) (State.reset.setV 3 9) = .next t ∧ t.st ≠ State.reset.st) ∧
    (∃ t, exec (.ldB 3) (State.reset.setV 3 9) = .next t ∧ t.mem ≠ State.reset.mem) ∧
    (∃ t, exec .cls State.reset = .next t ∧ t.trace ≠ State.reset.trace) ∧
    (∃ t, exec (.ldVxK 5) State.reset = .next t ∧ t.waitX ≠ State.reset.waitX) ∧
    ∃ t, exec (.rnd 3 0) State.reset = .next t ∧ t.env ≠ State.reset.env :=
  ⟨⟨_, rfl, by decide⟩, ⟨_, rfl, by decide, by decide⟩, ⟨_, rfl, by decide⟩, ⟨_, rfl, by decide⟩, ⟨_, rfl, by decide⟩,
    ⟨_, rfl, by decide⟩, ⟨_, rfl, by decide⟩, ⟨_, rfl, by decide⟩, ⟨_, rfl, by decide⟩⟩

theorem test_witness_OnlySixInstructionsDefineTheFlag :
    (∃ t, exec (.sub 1 2) State.reset = .next t ∧ t.getV flagReg ≠ State.reset.getV flagReg) ∧
    (∃ t, exec (.ldByte flagReg 0x55) State.reset = .next t ∧ t.getV flagReg ≠ State.reset.getV flagReg) ∧
    ∃ t, exec (.drw 0 1 5) State.reset = .next t :=
  ⟨⟨_, rfl, by decide⟩, ⟨_, rfl, by decide⟩, ⟨_, rfl⟩⟩

theorem test_witness_OtherInstructionsReadNoInput :
    (∀ x kk, Instr.cls ≠ .rnd x kk) ∧ (∀ x, Instr.cls ≠ .skp x ∧ Instr.cls ≠ .sknp x) ∧
    (∃ t, exec .cls State.reset = .next t) ∧ exec .ret (inCall 0 16) = .fault .noStackSlot :=
  ⟨by simp, by simp, ⟨_, rfl⟩, rfl⟩

theorem test_witness_PresentPolicyAffectsOnlyTheTrace : ∃ t, step (start 0x1200) = .next t := ⟨_, rfl⟩

theorem test_witness_ResetLeavesTableR40 : 79 < fontTable.length ∧ 0x050 ≤ 0x200 := by decide

theorem test_witness_BootPlacesFontAndRom :
    (List.replicate 3584 (0 : Byte)).length ≤ 3584 ∧ 3584 < (List.replicate 3585 (0 : Byte)).length := by
  rw [List.length_replicate, List.length_replicate]
  decide

theorem test_witness_CallPushesReturnAddress : (inCall 0 14).sp.toNat < 15 ∧ State.reset.sp.toNat < 15 := by decide

theorem test_witness_RetPopsReturnAddress :
    (inCall 0 15).sp.toNat < 16 ∧ (inCall 0 15).sp ≠ 0 ∧ (inCall 0 1).sp ≠ 0 := by decide

theorem test_witness_RetUndoesCall : (inCall 0 14).sp.toNat < 15 := by decide

/-- The clause on the low nibble of groups 5 and 9. -/
theorem test_witness_SkipsOnRegister :
    (groupOf 0x5121 = 5 ∧ nOf 0x5121 ≠ 0) ∧ (groupOf 0x912F = 9 ∧ nOf 0x912F ≠ 0) := by decide

/-- The result clauses of `AddSetsCarry`, `SubtractionsSetNotBorrow` and `ShiftsMoveOneBitIntoTheFlag`. -/
theorem test_witness_destination_is_not_flag : (0xE : Reg) ≠ flagReg ∧ ¬ (0xF : Reg) ≠ flagReg := by decide

theorem test_witness_RndMasksOneDraw : (withRand State.reset 0xA7).env.randIn = 0xA7 :: [] := rfl

/-- A sprite that ends at the last byte of memory, and no sprite at all. -/
theorem test_witness_DrwFlipsTheSpritesPixels :
    ({ State.reset with i := 0xFF1 } : State).i.toNat + (15 : Nibble).toNat ≤ 0x1000 ∧ (0 : Nibble) = 0 := by decide

/-- Over unset pixels: the sprite covers a cell and there is no collision. -/
theorem test_witness_DrawingTwiceRestores :
    (0 : Reg) ≠ flagReg ∧ (1 : Reg) ≠ flagReg ∧
    (sprite 0xD011 [] [0x80]).i.toNat + (1 : Nibble).toNat ≤ 0x1000 ∧
    (∃ col row, (sprite 0xD011 [] [0x80]).spriteCovers 0 1 1 col row) ∧ ¬ (sprite 0xD011 [] [0x80]).collides 0 1 1 := by
  refine ⟨by decide, by decide, by decide, ⟨0, 0, 0, 0, by decide, by decide, by decide, by decide, by decide⟩, ?_⟩
  rintro ⟨col, row, -, hp⟩
  have hb : (sprite 0xD011 [] [0x80]).fb = Vector.replicate 32 0 := rfl
  rw [hb] at hp
  simp [Framebuffer.pixel] at hp

theorem test_witness_KeySkipsFollowTheKey :
    ((State.reset.setV 3 15).getV 3).toNat ≤ 15 ∧ (withKeys State.reset 0x8000).env.keysIn = 0x8000 :: [] := by decide

theorem test_witness_LdBStoresDecimalDigits : ({ State.reset with i := 0xFFD } : State).dataAddr 0 + 2 ≤ 0xFFF := by decide

/-- `StoreRegsWritesBlock`, `LoadRegsReadsBlock` and `StoreThenLoadRoundTrips`: all 16 registers, up to 0xFFF. -/
theorem test_witness_register_block : ({ State.reset with i := 0xFF0 } : State).dataAddr (15 : Reg).toNat ≤ 0xFFF := by decide

end Sys2Proof.Tests
end

/-! # What a handler and a step can do

One inversion lemma for every handler (`exec_handled`) and one for the step (`step_transition`): the statements about
the state, its run status, its invariant and its access matrix are case splits over these two. -/

namespace Sys2Proof.Machine

/-! ## The fields after a drawing -/

section Drawn
variable (s : State) (b : Blit)

@[simp] theorem State.drawn_v : (s.drawn b).v = (s.setV flagReg (flagByte b.2)).v := by rw [State.drawn_eq]
@[simp] theorem State.drawn_pc : (s.drawn b).pc = s.pc + 2 := by rw [State.drawn_eq]
@[simp] theorem State.drawn_i : (s.drawn b).i = s.i := by rw [State.drawn_eq]
@[simp] theorem State.drawn_sp : (s.drawn b).sp = s.sp := by rw [State.drawn_eq]
@[simp] theorem State.drawn_stack : (s.drawn b).stack = s.stack := by rw [State.drawn_eq]
@[simp] theorem State.drawn_dt : (s.drawn b).dt = s.dt := by rw [State.drawn_eq]
@[simp] theorem State.drawn_st : (s.drawn b).st = s.st := by rw [State.drawn_eq]
@[simp] theorem State.drawn_mem : (s.drawn b).mem = s.mem := by rw [State.drawn_eq]
@[simp] theorem State.drawn_fb : (s.drawn b).fb = b.1 := by rw [State.drawn_eq]
@[simp] theorem State.drawn_status : (s.drawn b).status = s.status := by rw [State.drawn_eq]
@[simp] theorem State.drawn_fault : (s.drawn b).fault = s.fault := by rw [State.drawn_eq]
@[simp] theorem State.drawn_waitX : (s.drawn b).waitX = s.waitX := by rw [State.drawn_eq]
@[simp] theorem State.drawn_params : (s.drawn b).params = s.params := by rw [State.drawn_eq]
@[simp] theorem State.drawn_env : (s.drawn b).env = s.env := by rw [State.drawn_eq]

/-- A drawing writes the register file as the write of `VF` does (R197). -/
@[simp] theorem State.getV_drawn (j : Reg) : (s.drawn b).getV j = (s.setV flagReg (flagByte b.2)).getV j := by
  rw [State.getV, State.getV, State.drawn_v]

end Drawn

/-! ## The handlers -/

/-- How many bytes at `i` an instruction accesses: the sprite, the digits or the register block (R196, R232 to
R234). -/
def dataLength : Instr → Nat
  | .drw _ _ n => n.toNat
  | .ldB _ => 3
  | .storeRegs x | .loadRegs x => x.toNat + 1
  | _ => 0

/-- The check a handler makes, and the fault it raises on it (R262). -/
inductive HandlerFault (s : State) : Instr → FaultCause → Prop
  | underflow (h : s.sp = 0) : HandlerFault s .ret .stackUnderflow
  | overflow (nnn : Addr) (h : s.sp = 15) : HandlerFault s (.call nnn) .stackOverflow
  | noKey {i : Instr} {x : Reg} (hi : i = .skp x ∨ i = .sknp x) (h : 15 < (s.getV x).toNat) :
      HandlerFault s i (.keyIndex (s.getV x))
  | outside {i : Instr} (h0 : dataLength i ≠ 0) (h : memSize < s.dataAddr 0 + dataLength i) :
      HandlerFault s i (.memoryBounds (max (s.dataAddr 0) memSize))

/-- The handler of `i` on `s` answers the next state `t`: one constructor for each shape of answer, with the
instructions that have it. -/
inductive Handled (s : State) : Instr → State → Prop
  | fault {i : Instr} {c : FaultCause} (hf : HandlerFault s i c) : Handled s i (s.raise c)
  | cls : Handled s .cls ((s.setFb Framebuffer.blank).emit .clear).advance
  | ret (h0 : s.sp ≠ 0) (h : s.sp.toNat < 16) : Handled s .ret (s.jump s.stack[s.sp.toNat]).pop
  | call (nnn : Addr) (h : s.sp.toNat < 15) :
      Handled s (.call nnn) ((s.push (s.pc + 2) h).jump (addrOperand nnn))
  | jump {i : Instr} {a : Word} (hi : ∃ nnn, i = .jp nnn ∨ i = .jpV0 nnn) (ha : a.toNat ≤ 0x10FE) :
      Handled s i (s.jump a)
  | skip {i : Instr} {x : Reg} {c : Bool}
      (hi : (∃ kk, i = .seByte x kk ∨ i = .sneByte x kk) ∨ ∃ y, i = .seReg x y ∨ i = .sneReg x y) :
      Handled s i (s.skipIf c)
  | skipOnKey {i : Instr} {x : Reg} {c : Bool} (hi : i = .skp x ∨ i = .sknp x) (h : (s.getV x).toNat ≤ 15) :
      Handled s i (s.takeKeys.skipIf c)
  | result {i : Instr} {x : Reg} {r : Byte} (hi : (∃ kk, i = .ldByte x kk ∨ i = .addByte x kk) ∨
      (∃ y, i = .mov x y ∨ i = .or x y ∨ i = .and x y ∨ i = .xor x y) ∨ i = .ldVxDt x) :
      Handled s i (s.setV x r).advance
  | flagged {i : Instr} {x : Reg} {r : Byte} {c : Bool}
      (hi : ∃ y, i = .add x y ∨ i = .sub x y ∨ i = .shr x y ∨ i = .subn x y ∨ i = .shl x y) :
      Handled s i ((s.setV x r).setV flagReg (flagByte c)).advance
  | rnd (x : Reg) (kk : Byte) : Handled s (.rnd x kk) (s.takeRand.setV x (s.randByte &&& kk)).advance
  | drw (x y : Reg) {n : Nibble} {b : Blit} (h : n.toNat = 0 ∨ s.dataAddr 0 + n.toNat ≤ memSize) :
      Handled s (.drw x y n) (s.drawn b)
  | setI {i : Instr} {a : Word} (hi : (∃ nnn, i = .ldI nnn) ∨ ∃ x, i = .addI x ∨ i = .ldF x) :
      Handled s i (s.setI a).advance
  | setDt (x : Reg) : Handled s (.ldDtVx x) (s.setDt (s.getV x)).advance
  | setSt (x : Reg) : Handled s (.ldStVx x) (s.setSt (s.getV x)).advance
  | suspend (x : Reg) : Handled s (.ldVxK x) (s.suspend x)
  | store {i : Instr} {bs : List Byte} (hi : ∃ x, i = .ldB x ∨ i = .storeRegs x)
      (h : s.dataAddr 0 + bs.length ≤ memSize) : Handled s i (s.store (s.dataAddr 0) bs).advance
  | loadRegs {x : Reg} (h : s.dataAddr 0 + (x.toNat + 1) ≤ memSize) :
      Handled s (.loadRegs x)
        (s.setBlock x (Memory.readBytes s.mem (s.dataAddr 0) (x.toNat + 1))).advance

/-- A bounded access of the length of `i` is handled when it is handled done, inside memory. -/
theorem Handled.bounded {s t : State} {i : Instr}
    (ht : dataLength i = 0 ∨ s.dataAddr 0 + dataLength i ≤ memSize → Handled s i t) :
    Handled s i (s.bounded (s.dataAddr 0) (dataLength i) t) := by
  rcases s.bounded_cases (s.dataAddr 0) (dataLength i) t with ⟨e, h⟩ | ⟨e, h0, h⟩
  · rw [e]; exact ht h
  · rw [e]; exact .fault (.outside h0 h)

/-- A key skip is handled: the value is no key, or a sample decides. -/
theorem Handled.of_skipOnKey (s : State) {i : Instr} {x : Reg} (want : Bool) (hi : i = .skp x ∨ i = .sknp x) :
    Handled s i (s.skipOnKey (s.getV x) want) := by
  rcases s.skipOnKey_cases (s.getV x) want with ⟨h, e⟩ | ⟨h, e⟩
  · rw [e]; exact .fault (.noKey hi h)
  · rw [e]; exact .skipOnKey hi h

/-- R24: an address operand, with or without `v[0]` added, is at most 0x10FE. -/
theorem jumpTarget_le (b : Byte) (nnn : Addr) : (wordOperand b + addrOperand nnn).toNat ≤ 0x10FE := by
  have := b.isLt
  have := nnn.isLt
  simp only [wordOperand, addrOperand, BitVec.toNat_add, BitVec.toNat_setWidth]
  omega

theorem addrOperand_le (nnn : Addr) : (addrOperand nnn).toNat ≤ 0x0FFF := by
  have := nnn.isLt
  simp only [addrOperand, BitVec.toNat_setWidth]
  omega

/-- Every next state of `exec` is an answer of one of the shapes. -/
theorem exec_handled {i : Instr} {s t : State} (h : exec i s = .next t) : Handled s i t := by
  cases i
  case ret =>
    rcases execRet_cases s with ⟨h0, e⟩ | ⟨h0, hl, e⟩ | ⟨_, e⟩ <;> cases e.symm.trans h
    · exact .fault (.underflow h0)
    · exact .ret h0 hl
  case call nnn =>
    rcases execCall_cases s nnn with ⟨h0, e⟩ | ⟨hl, e⟩ | ⟨_, e⟩ <;> cases e.symm.trans h
    · exact .fault (.overflow nnn h0)
    · exact .call nnn hl
  all_goals
    injection h with h
    subst h
  case cls => exact .cls
  case jp nnn => exact .jump ⟨nnn, .inl rfl⟩ ((addrOperand_le nnn).trans (by decide))
  case jpV0 nnn => exact .jump ⟨nnn, .inr rfl⟩ (jumpTarget_le _ nnn)
  case seByte x kk => exact .skip (.inl ⟨kk, .inl rfl⟩)
  case sneByte x kk => exact .skip (.inl ⟨kk, .inr rfl⟩)
  case seReg x y => exact .skip (.inr ⟨y, .inl rfl⟩)
  case sneReg x y => exact .skip (.inr ⟨y, .inr rfl⟩)
  case skp x => exact .of_skipOnKey s true (.inl rfl)
  case sknp x => exact .of_skipOnKey s false (.inr rfl)
  case ldByte x kk => exact .result (.inl ⟨kk, .inl rfl⟩)
  case addByte x kk => exact .result (.inl ⟨kk, .inr rfl⟩)
  case mov x y => exact .result (.inr (.inl ⟨y, .inl rfl⟩))
  case or x y => exact .result (.inr (.inl ⟨y, .inr (.inl rfl)⟩))
  case and x y => exact .result (.inr (.inl ⟨y, .inr (.inr (.inl rfl))⟩))
  case xor x y => exact .result (.inr (.inl ⟨y, .inr (.inr (.inr rfl))⟩))
  case ldVxDt x => exact .result (.inr (.inr rfl))
  case add x y => exact .flagged ⟨y, .inl rfl⟩
  case sub x y => exact .flagged ⟨y, .inr (.inl rfl)⟩
  case shr x y => exact .flagged ⟨y, .inr (.inr (.inl rfl))⟩
  case subn x y => exact .flagged ⟨y, .inr (.inr (.inr (.inl rfl)))⟩
  case shl x y => exact .flagged ⟨y, .inr (.inr (.inr (.inr rfl)))⟩
  case ldI nnn => exact .setI (.inl ⟨nnn, rfl⟩)
  case addI x => exact .setI (.inr ⟨x, .inl rfl⟩)
  case ldF x => exact .setI (.inr ⟨x, .inr rfl⟩)
  case rnd x kk => exact .rnd x kk
  case ldDtVx x => exact .setDt x
  case ldStVx x => exact .setSt x
  case ldVxK x => exact .suspend x
  case drw x y n => exact .bounded fun h => .drw x y h
  case ldB x => exact .bounded fun h => .store ⟨x, .inl rfl⟩ (h.resolve_left (Nat.succ_ne_zero _))
  case storeRegs x =>
    exact .bounded fun h => .store ⟨x, .inr rfl⟩ (by
      rw [State.length_getBlock]; exact h.resolve_left (Nat.succ_ne_zero _))
  case loadRegs x => exact .bounded fun h => .loadRegs (h.resolve_left (Nat.succ_ne_zero _))

end Sys2Proof.Machine

/-! # What a handler's answer does to each part of the state -/

namespace Sys2Proof.Machine

section Handled
variable {s t : State} {i : Instr}

/-- The run state and the fault record: a fault sets both, the suspension the first, nothing else either. -/
theorem Handled.status_cases (h : Handled s i t) :
    (∃ c, t = s.raise c) ∨ (∃ x, i = .ldVxK x ∧ t = s.suspend x) ∨ (t.status = s.status ∧ t.fault = s.fault) := by
  cases h
  case fault c _ => exact .inl ⟨c, rfl⟩
  case suspend x => exact .inr (.inl ⟨x, rfl, rfl⟩)
  all_goals exact .inr (.inr (by simp))

/-- R38: no handler writes the parameters. -/
theorem Handled.params (h : Handled s i t) : t.params = s.params := by
  cases h <;> simp

/-- R26: `CALL` and `RET` check `sp` before they move it. -/
theorem Handled.sp_le (h : Handled s i t) (hsp : s.spInRange) : t.spInRange := by
  have one : (1 : Byte).toNat = 1 := rfl
  cases h
  case ret h0 _ =>
    have : s.sp.toNat ≠ 0 := fun e => h0 (BitVec.eq_of_toNat_eq e)
    simp only [State.spInRange, State.pop_sp, State.jump_sp, BitVec.toNat_sub, one] at hsp ⊢
    omega
  case call _ h =>
    simp only [State.spInRange, State.jump_sp, State.push_sp, BitVec.toNat_add, one]
    omega
  all_goals simpa using hsp

/-- The step from a fetched `pc` does not wrap. -/
theorem toNat_add_le_of_fetched {p : Word} (hp : p.toNat ≤ 0xFFE) (d : Word) :
    (p + d).toNat ≤ 0xFFE + d.toNat := by
  rw [BitVec.toNat_add]
  exact (Nat.mod_le _ _).trans (Nat.add_le_add_right hp _)

/-- R27: the one slot written is written by `CALL`, with the address after it. -/
theorem Handled.slots_le (h : Handled s i t) (hpc : s.pc.toNat ≤ 0xFFE)
    (hs : ∀ k : Fin 16, s.stack[k.val].toNat ≤ 0x1000) (k : Fin 16) : t.stack[k.val].toNat ≤ 0x1000 := by
  cases h
  case call _ h =>
    simp only [State.jump_stack, State.push_stack, Vector.getElem_set]
    split
    · exact toNat_add_le_of_fetched hpc 2
    · exact hs k
  all_goals simpa using hs k

/-- R24: from a fetched `pc`, the next one is at most 0x10FE. -/
theorem Handled.pc_le (h : Handled s i t) (hpc : s.pc.toNat ≤ 0xFFE)
    (hs : ∀ k : Fin 16, s.stack[k.val].toNat ≤ 0x1000) : t.pc.toNat ≤ 0x10FE := by
  have hnext : (s.pc + 2).toNat ≤ 0x10FE := (toNat_add_le_of_fetched hpc 2).trans (by decide)
  have hskip (c : Bool) : (s.pc + if c then 4 else 2).toNat ≤ 0x10FE := by
    cases c
    · exact hnext
    · exact (toNat_add_le_of_fetched hpc 4).trans (by decide)
  cases h
  case fault => exact hpc.trans (by decide)
  case suspend => exact hpc.trans (by decide)
  case ret _ h => exact (hs ⟨_, h⟩).trans (by decide)
  case call nnn _ => exact (addrOperand_le nnn).trans (by decide)
  case jump ha _ => exact ha
  case skip c _ => exact hskip c
  case skipOnKey c _ _ => exact hskip c
  case drw => rwa [State.drawn_pc]
  all_goals exact hnext

/-- A register write changes no register but its own. -/
theorem State.getV_setV_cases (s : State) (k x : Reg) (b : Byte) : (s.setV x b).getV k = s.getV k ∨ k = x := by
  by_cases h : k = x
  · exact .inr h
  · exact .inl (State.getV_setV_ne s b h)

/-- Table R42, the columns of the general registers and of `VF`. -/
theorem Handled.getV (h : Handled s i t) (k : Reg) : t.getV k = s.getV k ∨ writesRegister i k = true := by
  cases h
  case result x r hi =>
    rcases s.getV_setV_cases k x r with e | rfl
    · exact .inl e
    · right
      rcases hi with ⟨_, rfl | rfl⟩ | ⟨_, rfl | rfl | rfl | rfl⟩ | rfl <;> simp [writesRegister]
  case flagged x r c hi =>
    have hw : writesRegister i k = (k == x || k == flagReg) := by
      obtain ⟨_, rfl | rfl | rfl | rfl | rfl⟩ := hi <;> rfl
    rcases (s.setV x r).getV_setV_cases k flagReg (flagByte c) with ef | rfl
    · rcases s.getV_setV_cases k x r with e | rfl
      · exact .inl (ef.trans e)
      · exact .inr (by rw [hw, beq_self_eq_true, Bool.true_or])
    · exact .inr (by rw [hw, beq_self_eq_true, Bool.or_true])
  case rnd x kk => exact (s.takeRand.getV_setV_cases k x _).imp_right beq_iff_eq.2
  case drw b _ =>
    rw [State.getV_drawn]
    exact (s.getV_setV_cases k flagReg _).imp_right beq_iff_eq.2
  case loadRegs x _ =>
    by_cases hk : k.toNat ≤ x.toNat <;> simp [writesRegister, State.getV_setBlock, hk]
  all_goals exact .inl rfl

end Handled

/-! # What a step can do -/

/-- One transition from `s` (R126): the close transition or the abort, a tick step that faults before any handler, a
tick step through a handler, the key event, the wait going on. -/
inductive Transition (s : State) : State → Prop
  | close (hs : s.status = .running ∨ s.status = .waitKey) (he : s.event = .close) :
      Transition s s.takeEvent.close
  | faultingTick (c : FaultCause) (ht : s.ticks) : Transition s (s.ticked.raise c)
  | handlerTick {i : Instr} {u : State} (ht : s.ticks) (hf : s.fetches i) (hpc : s.pc.toNat ≤ 0xFFE)
      (h : exec i s.ticked = .next u) : Transition s u.endTick
  | key (k : BitVec 4) (hs : s.status = .waitKey) (he : s.event = .key k) :
      Transition s (s.takeEvent.keyArrives k)
  | wait (hs : s.status = .waitKey) (he : s.event = .idle) : Transition s s.takeEvent

/-- An opcode is fetched from inside memory only (R123). -/
theorem State.pc_le_of_fetch {s : State} {w : Word} (h : s.fetch = .ok w) : s.pc.toNat ≤ 0xFFE := by
  rcases s.fetch_cases with ⟨hpc, _⟩ | ⟨_, e⟩
  · simp only [memSize] at hpc; omega
  · cases h.symm.trans e

theorem tick_transition {s t : State} (ht : s.ticks) (h : tick s.takeEvent = .next t) : Transition s t := by
  have hfetch : s.takeEvent.fetch = s.fetch := State.fetch_congr rfl rfl
  rcases tick_cases h with ⟨a, _, rfl⟩ | ⟨w, r, _, _, rfl⟩ | ⟨w, i, u, hf, hd, he, rfl⟩
  · rw [State.endTick_raise]; exact .faultingTick _ ht
  · rw [State.endTick_raise]; exact .faultingTick _ ht
  · rw [hfetch] at hf
    exact .handlerTick ht ⟨w, hf, hd⟩ (State.pc_le_of_fetch hf) he

/-- Every step with a next state is one of the transitions. -/
theorem step_transition {s t : State} (h : step s = .next t) : Transition s t := by
  rcases status_of_step h with hs | hs
  · rcases step_running hs with ⟨he, e⟩ | ⟨he, e⟩
    · cases e.symm.trans h
      exact .close (.inl hs) he
    · exact tick_transition ⟨hs, he⟩ (e.symm.trans h)
  · rcases step_waitKey hs with ⟨k, he, e⟩ | ⟨he, e⟩ | ⟨he, e⟩
    all_goals cases e.symm.trans h
    · exact .key k hs he
    · exact .close (.inr hs) he
    · exact .wait hs he

/-! ## The end of a tick writes the event trace alone -/

theorem State.endTick_eq (s : State) : s.endTick = { s with trace := s.endTick.trace } := by
  rcases s.endTick_cases with e | e
  · rw [e]
  · rw [e]; rfl

@[simp] theorem State.endTick_status (s : State) : s.endTick.status = s.status := by rw [State.endTick_eq]
@[simp] theorem State.endTick_pc (s : State) : s.endTick.pc = s.pc := by rw [State.endTick_eq]
@[simp] theorem State.endTick_waitX (s : State) : s.endTick.waitX = s.waitX := by rw [State.endTick_eq]
@[simp] theorem State.endTick_params (s : State) : s.endTick.params = s.params := by rw [State.endTick_eq]

theorem State.good_endTick {s : State} (h : s.good) : s.endTick.good := by
  rw [State.endTick_eq]
  exact h

/-! ## The invariant -/

/-- R33, while no fault was taken. -/
theorem State.fault_eq_none {s : State} (h : s.faultRecorded) (hs : s.status ≠ .faulted) : s.fault = none :=
  Option.not_isSome_iff_eq_none.1 fun e => hs (h.2 e)

/-- Taking a fault keeps the invariant. -/
theorem State.good_raise {s : State} (c : FaultCause) (h : s.good) : (s.raise c).good := by
  obtain ⟨hm, hsp, _, hpc, hst, _⟩ := h
  exact ⟨hm, hsp, by simp [State.faultRecorded], hpc, hst, by simp⟩

/-- Every handler keeps the invariant, from `Running` and a fetched `pc`. -/
theorem exec_good {s t : State} {i : Instr} (h : exec i s = .next t) (hg : s.good) (hrun : s.status = .running)
    (hfetched : s.pc.toNat ≤ 0xFFE) : t.good := by
  obtain ⟨hm, hsp, hrec, hpc, hst, _⟩ := hg
  have hh := exec_handled h
  have hnone : s.fault = none := State.fault_eq_none hrec (by simp [hrun])
  have hcontrol : t.faultRecorded ∧ (t.status = .waitKey → t.pc.toNat ≤ 0xFFE) := by
    rcases hh.status_cases with ⟨c, rfl⟩ | ⟨x, _, rfl⟩ | ⟨hs, hf⟩
    · simp [State.faultRecorded]
    · simpa [State.faultRecorded, hnone] using hfetched
    · simp [State.faultRecorded, hs, hf, hrun, hnone]
  exact ⟨exec_wf h hm, hh.sp_le hsp, hcontrol.1, hh.pc_le hfetched hst, hh.slots_le hfetched hst, hcontrol.2⟩

/-- The close transition and the abort keep the invariant. -/
theorem State.good_close {s : State} (hg : s.good) (hs : s.status ≠ .faulted) : s.close.good := by
  obtain ⟨hm, hsp, hrec, hpc, hst, _⟩ := hg
  exact ⟨hm, hsp, by simp [State.faultRecorded, State.fault_eq_none hrec hs], hpc, hst, by simp⟩

/-- The key event keeps the invariant: the suspended `pc` was fetched from, so the next one is in range. -/
theorem State.good_keyArrives {s : State} (k : BitVec 4) (hg : s.good) (hs : s.status = .waitKey) :
    (s.keyArrives k).good := by
  obtain ⟨hm, hsp, hrec, _, hst, hwait⟩ := hg
  have hnone : s.fault = none := State.fault_eq_none hrec (by simp [hs])
  exact ⟨hm, hsp, by simp [State.faultRecorded, State.keyArrives, hnone],
    (toNat_add_le_of_fetched (hwait hs) 2).trans (by decide), hst, by simp [State.keyArrives]⟩

/-- Settles O22, by the cases of a step: each transition keeps the invariant. -/
theorem goodIsInvariant : Obligations.GoodIsInvariant := by
  intro s t hg h
  cases step_transition h with
  | close hs _ =>
    refine State.good_close (s := s.takeEvent) hg ?_
    rcases hs with hs | hs <;> simp [hs]
  | faultingTick c _ => exact State.good_raise (s := s.ticked) c hg
  | handlerTick ht _ hpc he => exact State.good_endTick (exec_good he hg ht.1 hpc)
  | key k hs _ => exact State.good_keyArrives (s := s.takeEvent) k hg hs
  | wait _ _ => exact hg

/-- Settles O16, by the cases of a step. -/
theorem statusTransitions : Obligations.StatusTransitions := by
  intro s t h
  refine ⟨status_of_step h, ?_⟩
  cases step_transition h with
  | close hs he => simp [he]
  | faultingTick c ht => simp [ht.1]
  | handlerTick ht hf _ he =>
    obtain ⟨hrun, -⟩ := ht
    rcases (exec_handled he).status_cases with ⟨c, rfl⟩ | ⟨x, rfl, rfl⟩ | ⟨hs, _⟩
    · simp [hrun]
    · exact ⟨by simp, fun _ _ => ⟨x, hf, by simp⟩, by simp [hrun], by simp [hrun]⟩
    · simp [hs, hrun]
  | key k hs he => simp [hs, he, State.keyArrives]
  | wait hs he => simp [hs]

/-- Settles O26, by the cases of a step. -/
theorem parametersAreFixed : Obligations.ParametersAreFixed := by
  intro s t h
  cases step_transition h with
  | handlerTick _ _ _ he => simp [(exec_handled he).params]
  | close | faultingTick | key | wait => rfl

/-- Settles O27, by the shapes of a handler's answer. -/
theorem writesFollowTheAccessMatrix : Obligations.WritesFollowTheAccessMatrix := by
  intro i s t h
  replace h := exec_handled h
  refine ⟨fun k hk => (h.getV k).resolve_left hk, ?_⟩
  cases h with
  | setI hi => simp [hi]
  | store hi _ => simp [hi]
  | skipOnKey hi _ => simpa using fun _ => Or.inr ⟨_, hi⟩
  | _ => simp

/-! ## The flag register -/

theorem flagByte_eq (c : Bool) : flagByte c = 0 ∨ flagByte c = 1 := by
  cases c
  · exact .inl rfl
  · exact .inr rfl

/-- The flag is written after the result, so it is what `VF` holds, `x = 15` included (R180). -/
@[simp] theorem State.getV_aluFlag_flagReg (s : State) (x : Reg) (r f : Byte) :
    (s.aluFlag x r f).getV flagReg = f := by
  simp [State.aluFlag]

/-- Table R42, the column `VF`, in words. -/
theorem writesRegister_flagReg {i : Instr} (h : writesRegister i flagReg = true) (hk : ∀ x, i ≠ .ldVxK x) :
    (∃ x y, i = .add x y ∨ i = .sub x y ∨ i = .shr x y ∨ i = .subn x y ∨ i = .shl x y) ∨
    (∃ x y n, i = .drw x y n) ∨
    (∃ kk, i = .ldByte flagReg kk ∨ i = .addByte flagReg kk ∨ i = .rnd flagReg kk) ∨
    (∃ y, i = .mov flagReg y ∨ i = .or flagReg y ∨ i = .and flagReg y ∨ i = .xor flagReg y) ∨
    i = .ldVxDt flagReg ∨ i = .loadRegs flagReg := by
  cases i
  case loadRegs x =>
    have hx : x = flagReg := BitVec.eq_of_toNat_eq (Nat.le_antisymm (Nat.le_of_lt_succ x.isLt) (of_decide_eq_true h))
    simp [hx]
  case ldVxK x => exact absurd rfl (hk x)
  all_goals simp_all [writesRegister]

/-- Settles O28: the flag results are bytes 0 and 1, and any other change is in the column `VF` of Table R42. -/
theorem onlySixInstructionsDefineTheFlag : Obligations.OnlySixInstructionsDefineTheFlag := by
  intro i s t h
  refine ⟨fun x y hi => ?_, ?_, fun hne => ?_⟩
  · rcases hi with rfl | rfl | rfl | rfl | rfl
    all_goals
      injection h with h
      subst h
      rw [State.getV_aluFlag_flagReg]
      exact flagByte_eq _
  · rintro x y n rfl
    injection h with h
    subst h
    rcases s.bounded_cases (s.dataAddr 0) n.toNat
      (s.drawn (blitRows (s.fb, false) (s.getV x).toNat (s.getV y).toNat (s.spriteRows n))) with ⟨e, _⟩ | ⟨e, _⟩
    · rw [e, State.getV_drawn, State.getV_setV_same]
      exact .inr (flagByte_eq _)
    · exact .inl e
  · have hw := ((exec_handled h).getV flagReg).resolve_left hne
    refine writesRegister_flagReg hw ?_
    rintro x rfl
    injection h with h
    subst h
    exact hne rfl

/-! ## Reset -/

/-- Settles O23, by evaluation of the reset state. -/
theorem resetIsGood : Obligations.ResetIsGood :=
  ⟨Memory.wf_nil, by decide, by decide, by decide⟩

theorem resetByte_of_lt {k : Nat} (h : k < fontTable.length) : resetByte k = fontTable[k] := by
  simp [resetByte, h]

theorem resetByte_of_ge {a : Nat} (h : fontTable.length ≤ a) : resetByte a = 0 := by
  simp [resetByte, h]

/-- Settles O31. -/
theorem resetLeavesTableR40 : Obligations.ResetLeavesTableR40 := by
  refine ⟨rfl, rfl, rfl, rfl, rfl, ?_, ?_, ?_, rfl, rfl, rfl, fun k => resetByte_of_lt, fun a => resetByte_of_ge⟩
  · intro k
    simp [State.getV, State.reset]
  · intro k
    simp [State.reset]
  · intro col row
    simp [Framebuffer.pixel, State.reset]

end Sys2Proof.Machine

/-! # Accesses outside memory

The fetch and the data accesses at their bound (the spec's decision D7). -/

namespace Sys2Proof.Machine

/-- Settles O6, by the two cases of the fetch: the opcode inside memory, the lowest offending address outside. -/
theorem fetchIsBigEndianAndBounded : Obligations.FetchIsBigEndianAndBounded := by
  intro s
  rcases s.fetch_cases with ⟨hin, e⟩ | ⟨hout, e⟩
  · have hbound : s.pc.toNat + 2 ≤ 0x1000 := hin
    exact ⟨fun _ => ⟨_, e, toNat_opcodeOfBytes _ _⟩, fun _ => by omega, fun _ => by omega⟩
  · have hbound : 0x1000 < s.pc.toNat + 2 := hout
    refine ⟨fun _ => by omega, fun heq => ?_, fun hgt => ?_⟩
    · rw [e, heq]; rfl
    · exact e.trans (congrArg _ (Nat.max_eq_left hgt))

/-- An instruction whose data would leave memory raises, with the lowest offending address, and does nothing else
(R79, R251). -/
theorem exec_outside {s : State} {i : Instr} (h0 : dataLength i ≠ 0) (h : memSize < s.dataAddr 0 + dataLength i) :
    exec i s = .next (s.raise (.memoryBounds (max (s.dataAddr 0) memSize))) := by
  cases i
  case drw | ldB | storeRegs | loadRegs => exact congrArg _ (s.bounded_outside _ h0 h)
  all_goals exact absurd rfl h0

/-- Settles O19: each of the four instructions accesses `dataLength` bytes at `i`. -/
theorem dataOutsideMemoryFaults : Obligations.DataOutsideMemoryFaults := by
  intro s
  refine ⟨fun x y n hn h => ?_, fun x h => ?_, fun x h => ⟨?_, ?_⟩⟩
  · have hlast : 0x1000 < s.i.toNat + n.toNat := by omega
    exact exec_outside (i := .drw x y n) hn.ne' hlast
  · exact exec_outside (i := .ldB x) (Nat.succ_ne_zero _) (Nat.succ_lt_succ h)
  · exact exec_outside (i := .storeRegs x) (Nat.succ_ne_zero _) (Nat.succ_lt_succ h)
  · exact exec_outside (i := .loadRegs x) (Nat.succ_ne_zero _) (Nat.succ_lt_succ h)

end Sys2Proof.Machine

/-! # The decoder, the encoder and Table R100

Both decoders give a covered word its row's instruction (`decodeWord_of_covers`, over the rows of the table); the strict
decoder gives an instruction only to the word the encoder writes for it (`decodeWord_faithful`, over the branches of
the decoder). With a covering row for every encoded instruction (`rowMatch`) the statements on encoding follow. -/

namespace Sys2Proof

open Sys2Proof.Laws

/-! ## From the table to the decoder -/

/-- Every mask of the table keeps the group nibble whole. -/
theorem groupOf_mask_of_mem {t : Bool} : ∀ r ∈ opcodeTable t, groupOf r.mask = 15 := by
  cases t <;> decide

/-- A word that passes the strict check of R95 is read in group 0x0 as the loose decoder reads it. -/
theorem decodeGroup0_eq_loose {strict : Bool} {w : Word} (hx : strict = true → xOf w = 0) :
    decodeGroup0 strict w = decodeGroup0 false w := by
  cases strict
  · rfl
  · simp [decodeGroup0, hx rfl]

/-- A word that passes the strict check of R99 is accepted. -/
theorem decodeLowZero_eq_ok {strict : Bool} {w : Word} (i : Instr) (hn : strict = true → nOf w = 0) :
    decodeLowZero strict w i = .ok i := by
  cases strict
  · rfl
  · simp [decodeLowZero, hn rfl]

/-- R100, R108: a word that a row covers is that row's instruction. The rows with the strict masks (`t`) serve either
decoder, the rows with the loose masks the loose one. -/
theorem decodeWord_of_covers {t strict : Bool} {w : Word} {r : OpRow} (ht : strict = true → t = true)
    (hr : r ∈ opcodeTable t) (h : r.covers w = true) : decodeWord strict w = .ok (r.instr w) := by
  have hm : w &&& r.mask = r.mat := eq_of_beq h
  rw [decodeWord, groupOf_of_mask hm (groupOf_mask_of_mem r hr)]
  simp only [opcodeTable, opcodeRowsLow, opcodeRowsHigh, List.mem_append, List.mem_cons, List.not_mem_nil,
    or_false] at hr
  rcases hr with (rfl | rfl | rfl | rfl | rfl | rfl | rfl | rfl | rfl | rfl | rfl | rfl | rfl | rfl | rfl | rfl | rfl |
    rfl | rfl) | (rfl | rfl | rfl | rfl | rfl | rfl | rfl | rfl | rfl | rfl | rfl | rfl | rfl | rfl | rfl)
  all_goals dsimp only at hm ⊢
  -- The groups of a single instruction that takes no check (R94).
  any_goals rfl
  -- Group 0x0 (R95): the low byte selects, after the check on `x`.
  iterate 2
    · have hx : strict = true → xOf w = 0 := by
        intro hs
        obtain rfl := ht hs
        exact xOf_of_mask hm rfl
      change decodeGroup0 strict w = _
      rw [decodeGroup0_eq_loose hx, decodeGroup0, kkOf_of_mask hm (by cases t <;> rfl)]
      rfl
  -- Groups 0x5 and 0x9 (R99): the check on the low nibble.
  iterate 2
    · refine decodeLowZero_eq_ok _ fun hs => ?_
      obtain rfl := ht hs
      exact nOf_of_mask hm rfl
  -- Group 0x8 (R96): the low nibble selects.
  iterate 9
    · change decodeGroup8 w = _
      rw [decodeGroup8, nOf_of_mask hm rfl]
      rfl
  -- Group 0xE (R97): the low byte selects.
  iterate 2
    · change decodeGroupE w = _
      rw [decodeGroupE, kkOf_of_mask hm rfl]
      rfl
  -- Group 0xF (R98): the low byte selects.
  iterate 9
    · change decodeGroupF w = _
      rw [decodeGroupF, kkOf_of_mask hm rfl]
      rfl

/-- Each row of Table R100 is an encoding in the sense of the instructions' own statements. -/
theorem encodesAs_of_mem {r : OpRow} (hr : r ∈ opcodeTable true) : Machine.encodesAs r.mask r.mat r.instr :=
  fun _ _ h => decodeWord_of_covers (fun _ => rfl) hr (beq_iff_eq.2 h)

/-! ## From the decoder to the encoder -/

/-- A word from the group and the address that a branch of the decoder has read. -/
theorem address_eq_word {w : Word} {g : Nibble} (hg : (groupOf w).toNat = g.toNat) : g ++ nnnOf w = w := by
  rw [← BitVec.eq_of_toNat_eq hg]
  exact word_eq_address w

/-- A word from the group, the register and the low byte. -/
theorem immediate_eq_word {w : Word} {g : Nibble} {kk : Byte} (hg : (groupOf w).toNat = g.toNat)
    (hkk : (kkOf w).toNat = kk.toNat) : g ++ xOf w ++ kk = w := by
  rw [← BitVec.eq_of_toNat_eq hg, ← BitVec.eq_of_toNat_eq hkk]
  exact word_eq_immediate w

/-- A word from the group, the two registers and the low nibble. -/
theorem nibbles_eq_word {w : Word} {g n : Nibble} (hg : (groupOf w).toNat = g.toNat)
    (hn : (nOf w).toNat = n.toNat) : g ++ xOf w ++ yOf w ++ n = w := by
  rw [← BitVec.eq_of_toNat_eq hg, ← BitVec.eq_of_toNat_eq hn]
  exact word_eq_nibbles w

/-- What the decoder answers to `w` is faithful: an instruction that the encoder writes as `w`, or the rejection that
names `w` (R101). -/
def Faithful (w : Word) (d : Decoded) : Prop :=
  (∃ i, d = .ok i ∧ encode i = w) ∨ d = .error (.unrecognizedOpcode w)

/-! Each group of the strict decoder is faithful; the last lemma dispatches on the top nibble (R94). -/

theorem Faithful.ok {w : Word} {i : Instr} (h : encode i = w) : Faithful w (.ok i) := .inl ⟨i, rfl, h⟩

theorem Faithful.error {w : Word} : Faithful w (.error (.unrecognizedOpcode w)) := .inr rfl

theorem decodeGroup0_faithful {w : Word} (hg : (groupOf w).toNat = 0) : Faithful w (decodeGroup0 true w) := by
  rw [decodeGroup0]
  split
  · exact .error
  next hx =>
    have hx : xOf w = 0 := by simpa using hx
    split
    next hkk => exact .ok (by rw [← immediate_eq_word (g := 0) (kk := 0xE0) hg hkk, hx]; rfl)
    next hkk => exact .ok (by rw [← immediate_eq_word (g := 0) (kk := 0xEE) hg hkk, hx]; rfl)
    · exact .error

theorem decodeLowZero_faithful {w : Word} {i : Instr} (h : nOf w = 0 → encode i = w) :
    Faithful w (decodeLowZero true w i) := by
  rw [decodeLowZero]
  split
  · exact .error
  next hn => exact .ok (h (by simpa using hn))

theorem decodeGroup8_faithful {w : Word} (hg : (groupOf w).toNat = 8) : Faithful w (decodeGroup8 w) := by
  rw [decodeGroup8]
  split
  case h_10 => exact .error
  all_goals exact .ok (nibbles_eq_word hg ‹_›)

theorem decodeGroupE_faithful {w : Word} (hg : (groupOf w).toNat = 0xE) : Faithful w (decodeGroupE w) := by
  rw [decodeGroupE]
  split
  case h_3 => exact .error
  all_goals exact .ok (immediate_eq_word hg ‹_›)

theorem decodeGroupF_faithful {w : Word} (hg : (groupOf w).toNat = 0xF) : Faithful w (decodeGroupF w) := by
  rw [decodeGroupF]
  split
  case h_10 => exact .error
  all_goals exact .ok (immediate_eq_word hg ‹_›)

theorem decodeWord_faithful (w : Word) : Faithful w (decodeWord true w) := by
  rw [decodeWord]
  split
  case h_1 hg => exact decodeGroup0_faithful hg
  case h_2 hg | h_3 hg | h_11 hg | h_12 hg => exact .ok (address_eq_word hg)
  case h_4 hg | h_5 hg | h_7 hg | h_8 hg | h_13 hg => exact .ok (immediate_eq_word hg rfl)
  case h_6 hg | h_10 hg => exact decodeLowZero_faithful fun hn => nibbles_eq_word hg (congrArg _ hn)
  case h_9 hg => exact decodeGroup8_faithful hg
  case h_14 hg => exact .ok (nibbles_eq_word hg rfl)
  case h_15 hg => exact decodeGroupE_faithful hg
  case h_16 =>
    have hlt := (groupOf w).isLt
    simp only [imp_false] at *
    exact decodeGroupF_faithful (by omega)

/-- Every instruction's word is in a row of Table R100 that reads it back (R93). -/
theorem rowMatch (i : Instr) : RowMatch.Statement i := by
  cases i
  exacts [RowMatch.cls, RowMatch.ret, RowMatch.jp _, RowMatch.call _, RowMatch.seByte _ _, RowMatch.sneByte _ _,
    RowMatch.seReg _ _, RowMatch.sneReg _ _, RowMatch.ldByte _ _, RowMatch.addByte _ _, RowMatch.mov _ _,
    RowMatch.or _ _, RowMatch.and _ _, RowMatch.xor _ _, RowMatch.add _ _, RowMatch.sub _ _, RowMatch.shr _ _,
    RowMatch.subn _ _, RowMatch.shl _ _, RowMatch.ldI _, RowMatch.jpV0 _, RowMatch.rnd _ _, RowMatch.drw _ _ _,
    RowMatch.skp _, RowMatch.sknp _, RowMatch.ldVxDt _, RowMatch.ldDtVx _, RowMatch.ldStVx _, RowMatch.ldVxK _,
    RowMatch.addI _, RowMatch.ldF _, RowMatch.ldB _, RowMatch.storeRegs _, RowMatch.loadRegs _]

/-- Either decoder gives an encoded instruction back (R91 to R93). -/
@[simp] theorem decodeWord_encode (strict : Bool) (i : Instr) : decodeWord strict (encode i) = .ok i := by
  obtain ⟨r, hr, hcov, hread⟩ := rowMatch i
  rw [encodesAs_of_mem hr strict _ (eq_of_beq hcov), hread]

/-- Settles O3, by the row that covers the encoded word; its two bytes are that word again. -/
theorem decodeOfEncode : Obligations.DecodeOfEncode := by
  intro i strict rest _
  refine ⟨decodeWord_encode strict i, ?_⟩
  simp [encodeBytes, wordBytes, decodeBytes, opcodeOfBytes_wordBytes]

/-- Settles O4, by the branches of the strict decoder. -/
theorem encodeOfDecode : Obligations.EncodeOfDecode := by
  intro w i h
  rcases decodeWord_faithful w with ⟨j, hj, hw⟩ | he
  · obtain rfl : i = j := Except.ok.inj (h.symm.trans hj)
    exact hw
  · cases h.symm.trans he

/-! ## The table as a whole -/

/-- Two rows whose matches differ where both masks are set cover no word in common. -/
theorem OpRow.not_covers_both {r q : OpRow} (w : Word) (h : r.mat &&& q.mask ≠ q.mat &&& r.mask) :
    ¬ (r.covers w = true ∧ q.covers w = true) := by
  rintro ⟨hr, hq⟩
  have hr : w &&& r.mask = r.mat := eq_of_beq hr
  have hq : w &&& q.mask = q.mat := eq_of_beq hq
  apply h
  rw [← hr, ← hq, BitVec.and_assoc, BitVec.and_assoc, BitVec.and_comm r.mask]

/-- No row of a table covers the word, in the two spellings of the statements and of the proofs. -/
theorem uncovered_iff {rows : List OpRow} {w : Word} :
    (∀ r ∈ rows, r.covers w = false) ↔ ¬ ∃ r ∈ rows, r.covers w = true := by
  simp

/-- A word that no row covers is rejected by the strict decoder (R101). -/
theorem decodeWord_of_uncovered {w : Word} (h : ¬ ∃ r ∈ opcodeTable true, r.covers w = true) :
    decodeWord true w = .error (.unrecognizedOpcode w) := by
  rcases decodeWord_faithful w with ⟨i, -, rfl⟩ | he
  · obtain ⟨r, hr, hcov, -⟩ := rowMatch i
    exact absurd ⟨r, hr, hcov⟩ h
  · exact he

/-- Settles O1: the rows differ in pairs where both masks are set, and the decoder agrees with the table row by row. -/
theorem tableSelectsTheInstruction : Obligations.TableSelectsTheInstruction := by
  have hdiffer : (opcodeTable true).Pairwise (fun r q => r.mat &&& q.mask ≠ q.mat &&& r.mask) := by decide
  exact ⟨rfl, fun w => ⟨hdiffer.imp (OpRow.not_covers_both w), fun _ => decodeWord_of_covers id,
    fun h => decodeWord_of_uncovered (uncovered_iff.1 h)⟩⟩

/-! ## The loose decoder -/

/-- R108 widens the masks: the words of a row under the strict masks are in some row under the loose ones. -/
theorem exists_loose_row {w : Word} {r : OpRow} (hr : r ∈ opcodeTable true) (h : r.covers w = true) :
    ∃ q ∈ opcodeTable false, q.covers w = true := by
  have hwider : ∀ r ∈ opcodeTable true, ∃ q ∈ opcodeTable false,
      r.mask &&& q.mask = q.mask ∧ r.mat &&& q.mask = q.mat := by
    decide
  obtain ⟨q, hq, hmask, hmat⟩ := hwider r hr
  have h : w &&& r.mask = r.mat := eq_of_beq h
  refine ⟨q, hq, beq_iff_eq.2 ?_⟩
  rw [← hmask, ← BitVec.and_assoc, h, hmat]

/-- A word is covered by a row whose mask keeps the group and the low byte (the masks 0xF0FF). -/
theorem mask_of_immediate {w m a : Word} (hg : groupOf w &&& groupOf m = groupOf a) (hx : xOf w &&& xOf m = xOf a)
    (hkk : kkOf w &&& kkOf m = kkOf a) : w &&& m = a := by
  rw [← word_eq_immediate (w &&& m), ← word_eq_immediate a, ← hg, ← hx, ← hkk]
  simp [groupOf, xOf, kkOf, BitVec.extractLsb'_and]

/-- The row at place `k` covers a word whose group, second nibble and low byte agree with its match under its mask. -/
theorem exists_row_at {t : Bool} {w : Word} (k : Nat) (hk : k < (opcodeTable t).length)
    (hg : groupOf w &&& groupOf (opcodeTable t)[k].mask = groupOf (opcodeTable t)[k].mat)
    (hx : xOf w &&& xOf (opcodeTable t)[k].mask = xOf (opcodeTable t)[k].mat)
    (hkk : kkOf w &&& kkOf (opcodeTable t)[k].mask = kkOf (opcodeTable t)[k].mat) :
    ∃ q ∈ opcodeTable t, q.covers w = true :=
  ⟨_, List.getElem_mem hk, beq_iff_eq.2 (mask_of_immediate hg hx hkk)⟩

/-- Any word of group 0x5 or 0x9 is in row 7 or 8 of the loose table. -/
theorem exists_loose_row_of_group {w : Word} (h : (groupOf w).toNat = 5 ∨ (groupOf w).toNat = 9) :
    ∃ q ∈ opcodeTable false, q.covers w = true := by
  rcases h with hg | hg
  · refine exists_row_at 6 (by decide) ?_ BitVec.and_zero BitVec.and_zero
    rw [BitVec.eq_of_toNat_eq (y := 5#4) hg]; rfl
  · refine exists_row_at 7 (by decide) ?_ BitVec.and_zero BitVec.and_zero
    rw [BitVec.eq_of_toNat_eq (y := 9#4) hg]; rfl

/-- Any word of group 0x0 with the low byte of `CLS` or `RET` is in row 1 or 2 of the loose table. -/
theorem exists_loose_row_of_group0 {w : Word} (hg : (groupOf w).toNat = 0)
    (h : (kkOf w).toNat = 0xE0 ∨ (kkOf w).toNat = 0xEE) : ∃ q ∈ opcodeTable false, q.covers w = true := by
  have hg : groupOf w = 0#4 := BitVec.eq_of_toNat_eq hg
  rcases h with hkk | hkk
  · refine exists_row_at 0 (by decide) (by rw [hg]; rfl) BitVec.and_zero ?_
    rw [BitVec.eq_of_toNat_eq (y := 0xE0#8) hkk]; rfl
  · refine exists_row_at 1 (by decide) (by rw [hg]; rfl) BitVec.and_zero ?_
    rw [BitVec.eq_of_toNat_eq (y := 0xEE#8) hkk]; rfl

/-- Group 0x0 rejects every other low byte (R95). -/
theorem decodeGroup0_of_other {strict : Bool} {w : Word} (h : ¬ ((kkOf w).toNat = 0xE0 ∨ (kkOf w).toNat = 0xEE)) :
    decodeGroup0 strict w = .error (.unrecognizedOpcode w) := by
  rw [decodeGroup0]
  split
  · rfl
  · split
    next hkk => exact absurd (.inl hkk) h
    next hkk => exact absurd (.inr hkk) h
    · rfl

/-- On a word that the loose table does not cover the two decoders agree: the checks that R108 drops are on words of
its wider rows. -/
theorem decodeWord_loose_of_uncovered {w : Word} (h : ¬ ∃ q ∈ opcodeTable false, q.covers w = true) :
    decodeWord false w = decodeWord true w := by
  rw [decodeWord, decodeWord]
  split
  case h_1 hg =>
    have hkk := mt (exists_loose_row_of_group0 hg) h
    rw [decodeGroup0_of_other hkk, decodeGroup0_of_other hkk]
  case h_6 hg => exact absurd (exists_loose_row_of_group (.inl hg)) h
  case h_10 hg => exact absurd (exists_loose_row_of_group (.inr hg)) h
  all_goals rfl

/-- Settles O2: a word outside the wider rows is decided as by the strict decoder, a word the strict one accepts is an
encoded instruction. -/
theorem looseDecoderExtendsStrict : Obligations.LooseDecoderExtendsStrict := by
  intro w
  refine ⟨fun _ => decodeWord_of_covers (by simp), fun h => ?_, fun i hi => ?_⟩
  · have hloose := uncovered_iff.1 h
    have hstrict : ¬ ∃ r ∈ opcodeTable true, r.covers w = true :=
      fun ⟨_, hr, hcov⟩ => hloose (exists_loose_row hr hcov)
    rw [decodeWord_loose_of_uncovered hloose, decodeWord_of_uncovered hstrict]
  · rw [← encodeOfDecode w i hi, decodeWord_encode]

/-- Settles O5, by evaluation of the decoder on the fixed words. -/
theorem sampleWordsDecode : Obligations.SampleWordsDecode := by
  unfold Obligations.SampleWordsDecode
  decide

end Sys2Proof

/-! # The execution cycle

A tick step in each of its forms as an equation (R121 to R125), and what follows for the timers, for progress and for
the inputs. -/

namespace Sys2Proof.Machine

/-! ## A tick step -/

/-- Where `ticks` holds, the step is the tick step (R121, R128). -/
theorem step_of_ticks {s : State} (ht : s.ticks) : step s = tick s.takeEvent := by
  obtain ⟨hs, he⟩ := ht
  rcases step_running hs with ⟨hclose, _⟩ | ⟨_, e⟩
  · exact absurd hclose he
  · exact e

/-- A fetch outside memory is the fault entry on the state whose timers have counted down (R123, R258). -/
theorem tick_of_fetch_error {s : State} {a : Nat} (hf : s.fetch = .error a) :
    tick s = .next (s.countDown.raise (.memoryBounds a)) := by
  have hf' : s.countDown.fetch = .error a := (State.fetch_congr rfl rfl).trans hf
  simp [tick, fetchAndExecute, hf', endTickResult]

/-- A word that does not decode is the fault entry on the state whose timers have counted down (R124, R250). -/
theorem tick_of_decode_error {s : State} {w : Word} {r : DecodeReject} (hf : s.fetch = .ok w)
    (hd : decodeWord s.params.decodeStrict w = .error r) :
    tick s = .next (s.countDown.raise (.decodeError w)) := by
  have hf' : s.countDown.fetch = .ok w := (State.fetch_congr rfl rfl).trans hf
  simp [tick, fetchAndExecute, hf', hd, endTickResult]

/-- A tick step that fetches `i` is the handler of `i`, then the end of the tick (R121, R125). -/
theorem step_of_fetches {s : State} {i : Instr} (ht : s.ticks) (hf : s.fetches i) :
    step s = endTickResult (exec i s.ticked) := by
  obtain ⟨w, hw, hd⟩ := hf
  have hw' : s.takeEvent.fetch = .ok w := (State.fetch_congr rfl rfl).trans hw
  exact (step_of_ticks ht).trans (tick_of_decode hw' hd)

/-- The same where the handler answers a next state. -/
theorem step_of_exec {s t : State} {i : Instr} (ht : s.ticks) (hf : s.fetches i) (h : exec i s.ticked = .next t) :
    step s = .next t.endTick := by
  rw [step_of_fetches ht hf, h]; rfl

/-- R199: under `every_tick` a tick that did not fault ends with `Present`. -/
theorem State.endTick_presents {s : State} (hp : s.params.presentPolicy = .everyTick) (hs : s.status ≠ .faulted) :
    s.endTick = s.emit .present :=
  if_pos ⟨hp, hs⟩

/-- R258: a tick that faulted ends with no event. -/
theorem State.endTick_of_faulted {s : State} (hs : s.status = .faulted) : s.endTick = s :=
  if_neg fun h => h.2 hs

/-- R199: under `on_collision` the end of a tick emits nothing. -/
theorem State.endTick_of_onCollision {s : State} (hp : s.params.presentPolicy = .onCollision) : s.endTick = s :=
  if_neg fun h => by cases hp.symm.trans h.1

/-- Settles O7, by the equation of a tick step that fetches `i` and the cases of the end of a tick. -/
theorem stepRunsDecodedInstruction : Obligations.StepRunsDecodedInstruction := by
  intro s i _ ht hf
  refine ⟨fun t h => ⟨step_of_exec ht hf h, t.endTick_eq, fun hp hs => ?_, fun _ => State.endTick_of_faulted,
    State.endTick_of_onCollision⟩, fun r h => ?_⟩
  · rw [State.endTick_presents hp hs, State.emit_trace]
  · rw [step_of_fetches ht hf, h]; rfl

/-- Settles O8: above 0xFFE the fetch names the lowest address outside memory. -/
theorem fetchOutsideMemoryFaults : Obligations.FetchOutsideMemoryFaults := by
  intro s ht hpc
  rcases s.takeEvent.fetch_cases with ⟨hin, _⟩ | ⟨_, hf⟩
  · have hbound : s.pc.toNat + 2 ≤ 0x1000 := hin
    omega
  · exact (step_of_ticks ht).trans (tick_of_fetch_error hf)

/-! ## The close request and the terminal states -/

/-- Settles O12: in either run state the close request is the one transition enabled. -/
theorem closeChangesOnlyStatus : Obligations.CloseChangesOnlyStatus := by
  rintro s (hs | hs) he
  · rcases step_running hs with ⟨_, e⟩ | ⟨hne, _⟩
    · exact e
    · exact absurd he hne
  · rcases step_waitKey hs with ⟨k, hk, _⟩ | ⟨_, e⟩ | ⟨hidle, _⟩
    · cases he.symm.trans hk
    · exact e
    · cases he.symm.trans hidle

/-- Settles O15, by the two last arms of `step`. -/
theorem terminalStatesStop : Obligations.TerminalStatesStop :=
  fun _ => ⟨fun hs => by rw [step, hs], fun hs => by rw [step, hs]⟩

/-! ## The timers -/

/-- R122: one toward 0, never below it. -/
theorem toNat_countDownByte (b : Byte) : (countDownByte b).toNat = b.toNat - 1 := by
  unfold countDownByte
  split
  · next h => rw [h]; rfl
  · next h =>
    have hpos : 1 ≤ b.toNat := Nat.pos_of_ne_zero fun e => h (BitVec.eq_of_toNat_eq e)
    exact BitVec.toNat_sub_of_le hpos

@[simp] theorem State.endTick_dt (s : State) : s.endTick.dt = s.dt := by rw [State.endTick_eq]
@[simp] theorem State.endTick_st (s : State) : s.endTick.st = s.st := by rw [State.endTick_eq]

/-- After a tick step each timer holds its countdown, unless the instruction that writes it was fetched (R122, R221,
R222). -/
theorem timers_of_tick {s t : State} (ht : s.ticks) (h : step s = .next t) :
    ((∃ x, s.fetches (.ldDtVx x)) ∨ t.dt = countDownByte s.dt) ∧
    ((∃ x, s.fetches (.ldStVx x)) ∨ t.st = countDownByte s.st) := by
  obtain ⟨hrun, hopen⟩ := ht
  cases step_transition h with
  | close _ he => exact absurd he hopen
  | faultingTick => exact ⟨.inr rfl, .inr rfl⟩
  | @handlerTick i u _ hf _ he =>
    obtain ⟨-, -, -, -, -, hdt, hst, -⟩ := writesFollowTheAccessMatrix i _ u he
    constructor
    · by_cases e : u.dt = s.ticked.dt
      · exact .inr (u.endTick_dt.trans e)
      · obtain ⟨x, rfl⟩ := hdt e
        exact .inl ⟨x, hf⟩
    · by_cases e : u.st = s.ticked.st
      · exact .inr (u.endTick_st.trans e)
      · obtain ⟨x, rfl⟩ := hst e
        exact .inl ⟨x, hf⟩
  | key _ hs _ | wait hs _ => cases hrun.symm.trans hs

/-- No transition but a tick step moves a timer (R126, R128, R213, R214). -/
theorem timers_of_not_tick {s t : State} (ht : ¬ s.ticks) (h : step s = .next t) : t.dt = s.dt ∧ t.st = s.st := by
  cases step_transition h with
  | faultingTick _ h' | handlerTick h' => exact absurd h' ht
  | close | key | wait => exact ⟨rfl, rfl⟩

/-- Settles O10: a fetched timer write by the equation of its tick step, any other by the cases of a step. -/
theorem timersCountDownOncePerTick : Obligations.TimersCountDownOncePerTick := by
  intro s t h
  refine ⟨fun ht => ?_, fun ht => timers_of_not_tick ht h⟩
  obtain ⟨hdt, hst⟩ := timers_of_tick ht h
  refine ⟨fun x hf => ?_, fun hno => ?_, fun x hf => ?_, fun hno => ?_⟩
  · cases (step_of_exec ht hf rfl).symm.trans h
    rw [State.endTick_dt]; rfl
  · rw [hdt.resolve_left (not_exists.2 hno), toNat_countDownByte]
  · cases (step_of_exec ht hf rfl).symm.trans h
    rw [State.endTick_st]; rfl
  · rw [hst.resolve_left (not_exists.2 hno), toNat_countDownByte]

/-! ## Progress -/

/-- With `sp` in range every handler answers a next state: only `RET` and `CALL` look for a slot (R26). -/
theorem exec_progress {s : State} (i : Instr) (hsp : s.spInRange) : ∃ t, exec i s = .next t := by
  cases i
  case ret =>
    rcases execRet_cases s with ⟨_, e⟩ | ⟨_, _, e⟩ | ⟨habove, _⟩
    · exact ⟨_, e⟩
    · exact ⟨_, e⟩
    · exact absurd hsp (Nat.not_le.2 habove)
  case call nnn =>
    rcases execCall_cases s nnn with ⟨_, e⟩ | ⟨_, e⟩ | ⟨habove, _⟩
    · exact ⟨_, e⟩
    · exact ⟨_, e⟩
    · exact absurd hsp (Nat.not_le.2 habove)
  all_goals exact ⟨_, rfl⟩

/-- With `sp` in range a tick answers a next state, whatever it fetches. -/
theorem tick_progress {s : State} (hsp : s.spInRange) : ∃ t, tick s = .next t := by
  cases hf : s.fetch with
  | error a => exact ⟨_, tick_of_fetch_error hf⟩
  | ok w =>
    cases hd : decodeWord s.params.decodeStrict w with
    | error r => exact ⟨_, tick_of_decode_error hf hd⟩
    | ok i =>
      obtain ⟨u, hu⟩ := exec_progress (s := s.countDown) i hsp
      exact ⟨u.endTick, by rw [tick_of_decode hf hd, hu]; rfl⟩

/-- Settles O25, by the transitions of the two run states; the tick needs `sp` in range. -/
theorem goodMachineIsNeverStuck : Obligations.GoodMachineIsNeverStuck := by
  rintro s ⟨_, hsp, _⟩ (hs | hs)
  · rcases step_running hs with ⟨_, e⟩ | ⟨_, e⟩
    · exact ⟨_, e⟩
    · rw [e]; exact tick_progress (s := s.takeEvent) hsp
  · rcases step_waitKey hs with ⟨_, _, e⟩ | ⟨_, e⟩ | ⟨_, e⟩ <;> exact ⟨_, e⟩

/-! ## The inputs -/

/-- The same state with other inputs. -/
abbrev State.withEnv (s : State) (e : Env) : State := { s with env := e }

/-- The same answer, a next state with other inputs. -/
def resultWithEnv (e : Env) : Result → Result
  | .next t => .next (t.withEnv e)
  | .fault r => .fault r
  | .refused r => .refused r

section Inputs
variable (s : State) (e : Env)

/-- The bound check reads no input. -/
theorem State.bounded_withEnv {base len : Nat} {t u : State} (hu : u = t.withEnv e) :
    (s.withEnv e).bounded base len u = (s.bounded base len t).withEnv e := by
  unfold State.bounded
  split
  · rfl
  · exact hu

/-- A drawing reads no input. -/
theorem State.drawn_withEnv (b : Blit) : (s.withEnv e).drawn b = (s.drawn b).withEnv e := by
  have ht : ((s.withEnv e).drawn b).trace = (s.drawn b).trace := by
    rw [State.drawn_trace, State.drawn_trace]
  calc (s.withEnv e).drawn b
    _ = _ := State.drawn_eq _ b
    _ = State.withEnv _ e := by rw [ht]; rfl
    _ = (s.drawn b).withEnv e := congrArg (State.withEnv · e) (s.drawn_eq b).symm

/-- `RET` reads no input: the same check, the same slot. -/
theorem execRet_withEnv : execRet (s.withEnv e) = resultWithEnv e (execRet s) := by
  unfold execRet
  split
  · rfl
  · dsimp only
    cases s.stack[s.sp.toNat]? <;> rfl

/-- `CALL` reads no input: the same checks, the same slot. -/
theorem execCall_withEnv (nnn : Addr) : execCall nnn (s.withEnv e) = resultWithEnv e (execCall nnn s) := by
  unfold execCall
  split
  · rfl
  · dsimp only
    split <;> rfl

/-- R130: a handler that takes no input answers the same whatever the inputs are. -/
theorem exec_withEnv {i : Instr} (hrnd : ∀ x kk, i ≠ .rnd x kk) (hkey : ∀ x, i ≠ .skp x ∧ i ≠ .sknp x) :
    exec i (s.withEnv e) = resultWithEnv e (exec i s) := by
  cases i
  case rnd x kk => exact absurd rfl (hrnd x kk)
  case skp x => exact absurd rfl (hkey x).1
  case sknp x => exact absurd rfl (hkey x).2
  case ret => exact execRet_withEnv s e
  case call nnn => exact execCall_withEnv s e nnn
  case drw => exact congrArg Host.Outcome.next (s.bounded_withEnv e (s.drawn_withEnv e _))
  case ldB | storeRegs | loadRegs => exact congrArg Host.Outcome.next (s.bounded_withEnv e rfl)
  all_goals rfl

end Inputs

/-- Settles O29, by the equation of each handler under other inputs. -/
theorem otherInstructionsReadNoInput : Obligations.OtherInstructionsReadNoInput := by
  intro i s e hrnd hkey
  have hexec : exec i { s with env := e } = resultWithEnv e (exec i s) := exec_withEnv s e hrnd hkey
  exact ⟨fun t h => by rw [hexec, h]; rfl, fun r h => by rw [hexec, h]; rfl⟩

end Sys2Proof.Machine

/-! # Control transfer

The jumps are `State.jump` and nothing else; `CALL` and `RET` are the inside cases of `execCall_cases` and
`execRet_cases`. That a `RET` undoes a `CALL` follows from what the two say of `sp` and of the slot. -/

namespace Sys2Proof.Machine

/-- Row `k` of Table R100 is an encoding. -/
theorem encodesAs_row (k : Nat) (hk : k < (opcodeTable true).length) :
    encodesAs (opcodeTable true)[k].mask (opcodeTable true)[k].mat (opcodeTable true)[k].instr :=
  encodesAs_of_mem (List.getElem_mem hk)

/-- A jump changes nothing but `pc` (R140). -/
theorem State.onlyPc_jump (s : State) (a : Word) : onlyPc s (s.jump a) :=
  ⟨rfl, fun _ => rfl⟩

/-- R93: an address operand is widened with zeros. -/
@[simp] theorem toNat_addrOperand (nnn : Addr) : (addrOperand nnn).toNat = nnn.toNat :=
  BitVec.toNat_setWidth_of_le (by decide)

/-- R144: a byte is widened with zeros. -/
@[simp] theorem toNat_wordOperand (b : Byte) : (wordOperand b).toNat = b.toNat :=
  BitVec.toNat_setWidth_of_le (by decide)

/-- R144: the sum of a byte and an address does not wrap at 16 bits. -/
theorem toNat_wordOperand_add_addrOperand (b : Byte) (nnn : Addr) :
    (wordOperand b + addrOperand nnn).toNat = b.toNat + nnn.toNat := by
  have hb := b.isLt
  have hn := nnn.isLt
  rw [BitVec.toNat_add, toNat_wordOperand, toNat_addrOperand, Nat.mod_eq_of_lt (by omega)]

/-- `CALL` below the overflow pushes the address after it and jumps (R143). -/
theorem exec_call_of_lt {s : State} (nnn : Addr) (h : s.sp.toNat < 15) :
    exec (.call nnn) s = .next ((s.push (s.pc + 2) h).jump (addrOperand nnn)) := by
  rcases execCall_cases s nnn with ⟨hfull, _⟩ | ⟨_, e⟩ | ⟨habove, _⟩
  · rw [hfull] at h
    exact absurd h (by decide)
  · exact e
  · omega

/-- `RET` inside a call jumps to the top slot and pops it (R141). -/
theorem exec_ret_of_ne_zero {s : State} (h0 : s.sp ≠ 0) (h : s.sp.toNat < 16) :
    exec .ret s = .next (s.jump s.stack[s.sp.toNat]).pop := by
  rcases execRet_cases s with ⟨hempty, _⟩ | ⟨_, _, e⟩ | ⟨habove, _⟩
  · exact absurd hempty h0
  · exact e
  · omega

/-- The push raises `sp` by one, without a wrap. -/
theorem State.toNat_push_sp (s : State) (ra : Word) (h : s.sp.toNat < 15) :
    (s.push ra h).sp.toNat = s.sp.toNat + 1 :=
  BitVec.toNat_add_of_lt (y := 1) (by change s.sp.toNat + 1 < 256; omega)

/-- The slot a push writes holds the word pushed. -/
theorem State.push_stack_same (s : State) (ra : Word) (h : s.sp.toNat < 15) :
    (s.push ra h).stack[s.sp.toNat + 1] = ra :=
  Vector.getElem_set_self (by omega)

/-- A push leaves every other slot alone. -/
theorem State.push_stack_ne (s : State) (ra : Word) (h : s.sp.toNat < 15) {k : Fin 16}
    (hk : k.val ≠ s.sp.toNat + 1) : (s.push ra h).stack[k.val] = s.stack[k.val] :=
  Vector.getElem_set_ne (by omega) k.isLt hk.symm

/-- The pop lowers `sp` by one, without a wrap. -/
theorem State.toNat_pop_sp {s : State} (h0 : s.sp ≠ 0) : s.pop.sp.toNat = s.sp.toNat - 1 :=
  BitVec.toNat_sub_of_le (y := 1) (Nat.pos_of_ne_zero fun e => h0 (BitVec.eq_of_toNat_eq e))

/-- Settles O33: `JP` is a jump to the widened operand. -/
theorem jpSetsPc : Obligations.JpSetsPc :=
  ⟨encodesAs_row 2 (by decide), fun nnn s => ⟨_, rfl, toNat_addrOperand nnn, s.onlyPc_jump _⟩⟩

/-- Settles O34: `JP V0` is a jump to a sum that does not wrap. -/
theorem jpV0AddsRegisterZero : Obligations.JpV0AddsRegisterZero :=
  ⟨encodesAs_row 20 (by decide), fun nnn s =>
    ⟨_, rfl, toNat_wordOperand_add_addrOperand (s.getV 0) nnn, s.onlyPc_jump _⟩⟩

/-- Settles O35: below the overflow `CALL` is a push and a jump. -/
theorem callPushesReturnAddress : Obligations.CallPushesReturnAddress :=
  ⟨encodesAs_row 3 (by decide), fun nnn s h =>
    ⟨_, exec_call_of_lt nnn h, s.toNat_push_sp (s.pc + 2) h, s.push_stack_same (s.pc + 2) h, toNat_addrOperand nnn,
      fun _ hk => s.push_stack_ne (s.pc + 2) h hk, rfl, fun _ => rfl⟩⟩

/-- Settles O36: inside a call `RET` is a jump to the top slot and a pop. -/
theorem retPopsReturnAddress : Obligations.RetPopsReturnAddress :=
  ⟨encodesAs_row 1 (by decide), fun s h h0 =>
    ⟨_, exec_ret_of_ne_zero h0 h, rfl, State.toNat_pop_sp (s := s.jump _) h0, rfl, fun _ => rfl⟩⟩

/-- Settles O37: the slot that `CALL` writes (O35) is the one that `RET` reads (O36), since both have the same `sp`. -/
theorem retUndoesCall : Obligations.RetUndoesCall := by
  intro nnn s p hsp
  obtain ⟨t, hcall, htsp, hslot, _⟩ := callPushesReturnAddress.2 nnn s hsp
  have hne : t.sp ≠ 0 := by
    intro h0
    rw [h0] at htsp
    exact Nat.succ_ne_zero _ htsp.symm
  obtain ⟨u, hret, hupc, husp, _⟩ := retPopsReturnAddress.2 { t with pc := p } (by change t.sp.toNat < 16; omega) hne
  refine ⟨t, u, hcall, hret, ?_, BitVec.eq_of_toNat_eq ?_⟩
  · simpa only [htsp, hslot] using hupc
  · rw [husp, htsp, Nat.add_sub_cancel]

end Sys2Proof.Machine

/-! # Skips

Each of the four skips is `State.skipIf` on its own comparison, so that one lemma (`exec_skip`) says what all of them
do; what remains of each statement is its encoding and that the comparison decides its condition. -/

namespace Sys2Proof.Machine

/-- A skip changes nothing but `pc` (R150). -/
theorem State.onlyPc_skipIf (s : State) (c : Bool) : onlyPc s (s.skipIf c) :=
  ⟨rfl, fun _ => rfl⟩

/-- A skip on a comparison `c` moves `pc` as the condition `p` that `c` decides asks. -/
theorem State.skipIf_pc_of_iff (s : State) {c : Bool} {p : Prop} [Decidable p] (hc : c = true ↔ p) :
    (s.skipIf c).pc = s.pc + (if p then 4 else 2) := by
  rw [State.skipIf_pc, if_congr hc rfl rfl]

/-- An instruction whose handler is a skip on `c`: `pc` moves by the condition that `c` decides, and the rest stays. -/
theorem exec_skip {i : Instr} {s : State} {c : Bool} {p : Prop} [Decidable p]
    (hi : exec i s = .next (s.skipIf c)) (hc : c = true ↔ p) :
    ∃ t, exec i s = .next t ∧ t.pc = s.pc + (if p then 4 else 2) ∧ onlyPc s t :=
  ⟨_, hi, s.skipIf_pc_of_iff hc, s.onlyPc_skipIf c⟩

/-- A word that fails the strict check of R99 is rejected. -/
theorem decodeLowZero_eq_error {w : Word} (i : Instr) (hn : nOf w ≠ 0) :
    decodeLowZero true w i = .error (.unrecognizedOpcode w) :=
  if_pos (bne_iff_ne.2 hn)

/-- R99: the strict decoder rejects a word of group 5 or 9 whose low nibble is not 0. -/
theorem decodeWord_of_lowNibble {w : Word} (hg : groupOf w = 5 ∨ groupOf w = 9) (hn : nOf w ≠ 0) :
    decodeWord true w = .error (.unrecognizedOpcode w) := by
  rcases hg with hg | hg <;> rw [decodeWord, hg]
  · exact decodeLowZero_eq_error (.seReg (xOf w) (yOf w)) hn
  · exact decodeLowZero_eq_error (.sneReg (xOf w) (yOf w)) hn

/-- Settles O38: `SE` skips on equality with the byte, `SNE` on inequality. -/
theorem skipsOnByte : Obligations.SkipsOnByte :=
  ⟨encodesAs_row 4 (by decide), encodesAs_row 5 (by decide), fun _ _ _ =>
    ⟨exec_skip rfl beq_iff_eq, exec_skip rfl bne_iff_ne⟩⟩

/-- Settles O39: the same on two registers, and the low nibble is the strict check of the two groups. -/
theorem skipsOnRegister : Obligations.SkipsOnRegister :=
  ⟨encodesAs_row 6 (by decide), encodesAs_row 7 (by decide), fun _ => decodeWord_of_lowNibble, fun _ _ _ =>
    ⟨exec_skip rfl beq_iff_eq, exec_skip rfl bne_iff_ne⟩⟩

end Sys2Proof.Machine

/-! # Immediate loads and add

Both byte instructions write one register and advance, so one lemma (`exec_setV`) says what they do; the address load
writes `i` and advances. None of them reads or writes a flag. -/

namespace Sys2Proof.Machine

/-- A register write and the advance change nothing but that register and `pc` (R160, R161). -/
theorem State.onlyReg_setV_advance (s : State) (x : Reg) (b : Byte) : onlyReg x s (s.setV x b).advance :=
  ⟨rfl, fun _ hk => s.getV_setV_ne b hk, fun _ => rfl⟩

/-- An instruction whose handler writes `b` to register `x` and advances: `x` holds `b`, and the rest stays. -/
theorem exec_setV {i : Instr} {s : State} {x : Reg} {b : Byte} (hi : exec i s = .next (s.setV x b).advance) :
    ∃ t, exec i s = .next t ∧ t.getV x = b ∧ t.pc = s.pc + 2 ∧ onlyReg x s t :=
  ⟨_, hi, s.getV_setV_same x b, rfl, s.onlyReg_setV_advance x b⟩

/-- Settles O40: both instructions write register `x`, and the sum of two bytes wraps at 256. -/
theorem byteImmediates : Obligations.ByteImmediates := by
  refine ⟨encodesAs_row 8 (by decide), encodesAs_row 9 (by decide), fun x kk s => ⟨exec_setV rfl, ?_⟩⟩
  obtain ⟨t, hexec, hsum, hframe⟩ := exec_setV (i := .addByte x kk) (s := s) rfl
  exact ⟨t, hexec, hsum ▸ BitVec.toNat_add (s.getV x) kk, hframe⟩

/-- Settles O41: the operand is widened with zeros into `i`, and `pc` advances. -/
theorem ldISetsAddressRegister : Obligations.LdISetsAddressRegister :=
  ⟨encodesAs_row 19 (by decide), fun nnn _ => ⟨_, rfl, toNat_addrOperand nnn, rfl, rfl, fun _ => rfl⟩⟩

end Sys2Proof.Machine

/-! # The register-to-register ALU

The four operations without a flag are register writes (`exec_setV`). The five with a flag share the shape of R170,
`State.aluFlag`, so one lemma (`exec_aluFlag`) says what all of them do; what remains of each statement is its encoding
and the arithmetic of its result and of its flag. -/

namespace Sys2Proof.Machine

/-- Settles O42: each of the four writes its result to register `x` as an ordinary destination. -/
theorem flaglessAlu : Obligations.FlaglessAlu :=
  ⟨encodesAs_row 10 (by decide), encodesAs_row 11 (by decide), encodesAs_row 12 (by decide),
    encodesAs_row 13 (by decide), fun _ _ _ => ⟨exec_setV rfl, exec_setV rfl, exec_setV rfl, exec_setV rfl⟩⟩

/-! ## The shape with a flag (R170) -/

/-- Another destination than `VF` holds the result: the write of the flag after it does not reach it. -/
theorem State.getV_aluFlag_of_ne (s : State) {x : Reg} (r f : Byte) (hx : x ≠ flagReg) :
    (s.aluFlag x r f).getV x = r :=
  (State.getV_setV_ne _ f hx).trans (s.getV_setV_same x r)

/-- The two writes and the advance change nothing but register `x`, `VF` and `pc`. -/
theorem State.onlyRegAndFlag_aluFlag (s : State) (x : Reg) (r f : Byte) : onlyRegAndFlag x s (s.aluFlag x r f) :=
  ⟨rfl, fun _ hk hkf => (State.getV_setV_ne _ f hkf).trans (s.getV_setV_ne r hk), fun _ => rfl⟩

/-- An instruction whose handler has the shape of R170 with a flag: `VF` holds the flag, `x = 15` included (R180),
any other `x` holds the result, and the rest stays. -/
theorem exec_aluFlag {i : Instr} {s : State} {x : Reg} {r f g : Byte} {n : Nat}
    (hi : exec i s = .next (s.aluFlag x r f)) (hf : f = g) (hr : r.toNat = n) :
    ∃ t, exec i s = .next t ∧ t.getV flagReg = g ∧ (x ≠ flagReg → (t.getV x).toNat = n) ∧
      t.pc = s.pc + 2 ∧ onlyRegAndFlag x s t :=
  ⟨_, hi, (s.getV_aluFlag_flagReg x r f).trans hf,
    fun hx => (congrArg BitVec.toNat (s.getV_aluFlag_of_ne r f hx)).trans hr, rfl, s.onlyRegAndFlag_aluFlag x r f⟩

/-! ## The flags and the results as numbers -/

/-- A flag as a number is its bit (R22). -/
theorem toNat_flagByte (c : Bool) : (flagByte c).toNat = c.toNat := by
  cases c <;> rfl

/-- The flag of a comparison. -/
theorem flagByte_decide (p : Prop) [Decidable p] : flagByte (decide p) = if p then 1 else 0 :=
  if_congr decide_eq_true_iff rfl rfl

/-- R177: the bit `SHR` shifts out is the remainder of the halving. -/
theorem toNat_lowBitFlag (a : Byte) : (lowBitFlag a).toNat = a.toNat % 2 := by
  rw [lowBitFlag, toNat_flagByte, BitVec.getLsbD, Nat.toNat_testBit, Nat.pow_zero, Nat.div_one]

/-- R179: the bit `SHL` shifts out is what the doubling carries out of the byte. -/
theorem toNat_highBitFlag (a : Byte) : (highBitFlag a).toNat = a.toNat / 128 := by
  have ha := a.isLt
  rw [highBitFlag, toNat_flagByte, BitVec.getLsbD, Nat.toNat_testBit]
  omega

/-- R176, R178: the difference of two bytes wraps at 256. -/
theorem toNat_sub_byte (a b : Byte) : (a - b).toNat = (a.toNat + 256 - b.toNat) % 256 := by
  have hb := b.isLt
  rw [BitVec.toNat_sub]
  omega

/-- R177. -/
theorem toNat_ushiftRight_one (a : Byte) : (a >>> 1).toNat = a.toNat / 2 :=
  (BitVec.toNat_ushiftRight a 1).trans (Nat.shiftRight_eq_div_pow a.toNat 1)

/-- R179. -/
theorem toNat_shiftLeft_one (a : Byte) : (a <<< 1).toNat = a.toNat * 2 % 256 := by
  rw [BitVec.toNat_shiftLeft, Nat.shiftLeft_eq, Nat.pow_one]

/-! ## The five instructions with a flag -/

/-- Settles O43: the sum wraps at 256 and the flag is the comparison of the exact sum with 255. -/
theorem addSetsCarry : Obligations.AddSetsCarry :=
  ⟨encodesAs_row 14 (by decide), fun x y s =>
    exec_aluFlag rfl (flagByte_decide _) (BitVec.toNat_add (s.getV x) (s.getV y))⟩

/-- Settles O44: one lemma on the difference of two bytes, with the operands in the two orders. -/
theorem subtractionsSetNotBorrow : Obligations.SubtractionsSetNotBorrow :=
  ⟨encodesAs_row 15 (by decide), encodesAs_row 17 (by decide), fun x y s =>
    ⟨exec_aluFlag rfl (flagByte_decide _) (toNat_sub_byte (s.getV x) (s.getV y)),
      exec_aluFlag rfl (flagByte_decide _) (toNat_sub_byte (s.getV y) (s.getV x))⟩⟩

/-- Settles O45: halving and doubling of `v[x]`, with the bit shifted out as the flag. -/
theorem shiftsMoveOneBitIntoTheFlag : Obligations.ShiftsMoveOneBitIntoTheFlag := by
  refine ⟨encodesAs_row 16 (by decide), encodesAs_row 18 (by decide), fun x y s => ⟨?_, ?_⟩⟩
  · obtain ⟨t, hexec, hflag, hrest⟩ := exec_aluFlag (i := .shr x y) rfl rfl (toNat_ushiftRight_one (s.getV x))
    exact ⟨t, hexec, hflag ▸ toNat_lowBitFlag (s.getV x), hrest⟩
  · obtain ⟨t, hexec, hflag, hrest⟩ := exec_aluFlag (i := .shl x y) rfl rfl (toNat_shiftLeft_one (s.getV x))
    exact ⟨t, hexec, hflag ▸ toNat_highBitFlag (s.getV x), hrest⟩

end Sys2Proof.Machine

/-! # The random byte

`RND` takes the draw and writes one register. The bounds of R191 are facts about a byte masked with another. -/

namespace Sys2Proof.Machine

/-- Where the environment supplies a byte, that is the byte drawn (R190). -/
theorem State.randByte_of_cons {s : State} {b : Byte} {bs : List Byte} (h : s.env.randIn = b :: bs) :
    s.randByte = b := by
  rw [State.randByte, h, List.headD_cons]

/-- A masked byte has no bit outside the mask (R191). -/
theorem masked_and_not_mask (r kk : Byte) : (r &&& kk) &&& ~~~kk = 0 := by
  rw [BitVec.and_assoc, BitVec.and_not_self]
  exact BitVec.and_zero

/-- A masked byte is at most the mask (R191). -/
theorem toNat_masked_le (r kk : Byte) : (r &&& kk).toNat ≤ kk.toNat :=
  (BitVec.toNat_and r kk).trans_le Nat.and_le_right

/-- Settles O46: the handler takes one draw and writes it, masked, to register `x`. -/
theorem rndMasksOneDraw : Obligations.RndMasksOneDraw := by
  refine ⟨encodesAs_row 21 (by decide), fun x kk s => ?_⟩
  have hx : (s.takeRand.setV x (s.randByte &&& kk)).advance.getV x = s.randByte &&& kk := State.getV_setV_same _ x _
  refine ⟨_, rfl, hx, fun b bs h => ?_, ?_, ?_, rfl, rfl, rfl, fun k hk => ?_, fun _ => rfl⟩
  · rw [hx, State.randByte_of_cons h]
  · rw [hx, masked_and_not_mask]
  · rw [hx]
    exact toNat_masked_le s.randByte kk
  · exact s.takeRand.getV_setV_ne _ hk

end Sys2Proof.Machine

/-! # The display

A drawing, from its loop over the sprite's bits (`blitRows_pixel`, `blitRows_hit`) up to the handler: the two lemmas on
`State.blit` say in the spec's words what `DRW` does to a pixel and when it collides. That drawing twice restores the
screen follows from the statement about one drawing. What the policy of R199 shows in is carried from the handler to
the step by one relation (`AgreeUnder`). -/

namespace Sys2Proof.Machine

/-! ## One drawing -/

/-- What the loop of `DRW Vx,Vy,n` leaves on `s` (R197 line 5). -/
def State.blit (s : State) (x y : Reg) (n : Nibble) : Blit :=
  blitRows (s.fb, false) (s.getV x).toNat (s.getV y).toNat (s.spriteRows n)

/-- Row `r` of the sprite is the byte at `i + r`, for the rows below `n` (R196). -/
theorem State.getElem?_spriteRows (s : State) (n : Nibble) (r : Nat) (bits : Byte) :
    (s.spriteRows n)[r]? = some bits ↔ r < n.toNat ∧ Memory.read s.mem (s.dataAddr 0 + r) = bits := by
  simp only [State.spriteRows, List.getElem?_eq_some_iff, Memory.length_readBytes, Memory.getElem_readBytes,
    exists_prop]

/-- The cells that the loop's rows cover are the spec's. -/
theorem State.rowsCover_spriteRows (s : State) (x y : Reg) (n : Nibble) (col row : Nat) :
    rowsCover (s.getV x).toNat (s.getV y).toNat (s.spriteRows n) col row ↔ s.spriteCovers x y n col row := by
  simp only [rowsCover, State.getElem?_spriteRows]
  constructor
  · rintro ⟨r, k, _, ⟨hr, rfl⟩, hk, hbit, hcell⟩
    exact ⟨r, k, hr, hk, hbit, hcell⟩
  · rintro ⟨r, k, hr, hk, hbit, hcell⟩
    exact ⟨r, k, _, ⟨hr, rfl⟩, hk, hbit, hcell⟩

/-- A sprite has at most 15 rows, so no two of them land on one line. -/
theorem State.length_spriteRows_le (s : State) (n : Nibble) : (s.spriteRows n).length ≤ 32 := by
  have hn := n.isLt
  rw [State.spriteRows, Memory.length_readBytes]
  omega

/-- A pixel flips exactly where a 1 bit of the sprite lands (R197). -/
theorem State.blit_pixel (s : State) (x y : Reg) (n : Nibble) (col row : Nat) :
    (s.blit x y n).1.pixel col row = true ↔ ¬ (s.fb.pixel col row = true ↔ s.spriteCovers x y n col row) := by
  rw [State.blit, blitRows_pixel _ _ _ _ _ _ (s.length_spriteRows_le n), State.rowsCover_spriteRows]

/-- The drawing collides exactly where the sprite meets a set pixel (R198). -/
theorem State.blit_hit (s : State) (x y : Reg) (n : Nibble) : (s.blit x y n).2 = true ↔ s.collides x y n := by
  rw [State.blit, blitRows_hit _ _ _ _ (s.length_spriteRows_le n)]
  simp only [State.rowsCover_spriteRows, Bool.false_eq_true, false_or, State.collides]

/-- Inside memory `DRW` draws (R197). -/
theorem exec_drw_inside {s : State} (x y : Reg) {n : Nibble} (h : n = 0 ∨ s.i.toNat + n.toNat ≤ 0x1000) :
    exec (.drw x y n) s = .next (s.drawn (s.blit x y n)) :=
  congrArg Host.Outcome.next (s.bounded_inside _ (h.imp_left (congrArg BitVec.toNat)))

/-- The drawing writes `VF` alone among the registers. -/
theorem State.getV_drawn_of_ne (s : State) (b : Blit) {k : Reg} (hk : k ≠ flagReg) : (s.drawn b).getV k = s.getV k :=
  (s.getV_drawn b k).trans (s.getV_setV_ne _ hk)

/-- `VF` and the trace after the drawing, on both outcomes (R198, R199). -/
theorem State.drawn_outcome (s : State) {b : Blit} {p : Prop} (hb : b.2 = true ↔ p) :
    (p ∧ (s.drawn b).getV flagReg = 1 ∧
        (s.drawn b).trace = s.trace ++ (if s.params.presentPolicy = .onCollision then [.present] else [])) ∨
      (¬ p ∧ (s.drawn b).getV flagReg = 0 ∧ (s.drawn b).trace = s.trace) := by
  rw [← hb, State.getV_drawn, State.getV_setV_same, State.drawn_trace]
  cases b.2 <;> simp [flagByte]

/-- Settles O48: inside memory the handler is the drawing, and its loop flips the covered pixels. -/
theorem drwFlipsTheSpritesPixels : Obligations.DrwFlipsTheSpritesPixels := by
  refine ⟨encodesAs_row 22 (by decide), fun x y n s h => ⟨_, exec_drw_inside x y h, fun col row => ?_,
    s.drawn_outcome (s.blit_hit x y n), fun _ => s.getV_drawn_of_ne _, s.drawn_pc _, ?_, fun _ => ?_⟩⟩
  · rw [State.drawn_fb, State.blit_pixel]
  · rw [State.drawn_v, State.drawn_fb, State.drawn_pc]
    exact s.drawn_eq _
  · rw [State.drawn_mem]

/-! ## Two drawings -/

/-- A sprite lies on the same cells in two states that agree on what `DRW` reads beside the screen (R196). -/
theorem State.spriteCovers_congr {s t : State} {x y : Reg} (hx : t.getV x = s.getV x) (hy : t.getV y = s.getV y)
    (hi : t.i = s.i) (hm : t.mem = s.mem) (n : Nibble) (col row : Nat) :
    t.spriteCovers x y n col row ↔ s.spriteCovers x y n col row := by
  simp only [State.spriteCovers, State.dataAddr, hx, hy, hi, hm]

/-- A truth value flipped where `b` holds, and flipped there again, is the old one. -/
theorem flipped_twice {a b : Prop} : ¬ (¬ (a ↔ b) ↔ b) ↔ a := by
  tauto

/-- Settles O49: the second drawing covers the cells of the first (O48), so each of them flips back; one that was unset
before the first is set for the second, which collides. -/
theorem drawingTwiceRestores : Obligations.DrawingTwiceRestores := by
  intro x y n s hx hy h
  obtain ⟨t, hst, hpix, hflag, hregs, -, hframe, -⟩ := drwFlipsTheSpritesPixels.2 x y n s h
  have hi : t.i = s.i := by rw [hframe]
  have hm : t.mem = s.mem := by rw [hframe]
  obtain ⟨u, htu, hpix', hflag', -⟩ := drwFlipsTheSpritesPixels.2 x y n t (hi.symm ▸ h)
  have hcovers := State.spriteCovers_congr (hregs x hx) (hregs y hy) hi hm n
  refine ⟨t, u, hst, htu, Framebuffer.ext_pixel fun col row _ _ => ?_, ?_⟩
  · rw [Bool.eq_iff_iff, hpix', hpix, hcovers, flipped_twice]
  · rintro ⟨col, row, hcover⟩ hfree
    have hunset : ¬ s.fb.pixel col row = true := fun hset => hfree ⟨col, row, hcover, hset⟩
    have hset : t.fb.pixel col row = true := (hpix col row).2 fun e => hunset (e.2 hcover)
    have hmeets : t.collides x y n := ⟨col, row, (hcovers col row).2 hcover, hset⟩
    obtain ⟨hcollides, -⟩ | ⟨-, hzero, -⟩ := hflag
    · exact absurd hcollides hfree
    obtain ⟨-, hone, -⟩ | ⟨hmisses, -⟩ := hflag'
    · exact ⟨hzero, hone⟩
    · exact absurd hmeets hmisses

/-! ## The blank screen -/

@[simp] theorem Framebuffer.pixel_blank (col row : Nat) : Framebuffer.blank.pixel col row = false := by
  simp [Framebuffer.pixel, Framebuffer.blank]

/-- Settles O47: the handler writes the blank screen, emits `Clear` and advances. -/
theorem clsClearsTheScreen : Obligations.ClsClearsTheScreen :=
  ⟨encodesAs_row 0 (by decide), fun _ => ⟨_, rfl, Framebuffer.pixel_blank, rfl, rfl, rfl, fun _ => rfl⟩⟩

/-! ## The policy -/

/-- In `WaitKey` a key event ends the wait (R213). -/
theorem step_of_key {s : State} {k : BitVec 4} (hs : s.status = .waitKey) (he : s.event = .key k) :
    step s = .next (s.takeEvent.keyArrives k) := by
  simp only [step, hs, waitStep, he]

/-- In `WaitKey` the wait goes on while nothing arrives (R212). -/
theorem step_of_wait {s : State} (hs : s.status = .waitKey) (he : s.event = .idle) :
    step s = .next s.takeEvent := by
  simp only [step, hs, waitStep, he]

/-- The state with the event trace left out of sight. -/
def State.untraced (s : State) : State := { s with trace := [] }

/-- `u` is `t` under the policy `p`, whatever the two event traces are. -/
def AgreeUnder (p : PresentPolicy) (t u : State) : Prop := u.untraced = (t.withPolicy p).untraced

/-- The end of a tick writes the event trace alone. -/
theorem State.untraced_endTick (s : State) : s.endTick.untraced = s.untraced := by
  rw [State.endTick_eq]; rfl

section Policy
variable {s t u : State} (p : PresentPolicy)

/-- Two states that agree still do at the end of the tick, whichever of them presents there. -/
theorem AgreeUnder.endTick (h : AgreeUnder p t u) : AgreeUnder p t.endTick u.endTick := by
  calc u.endTick.untraced
    _ = u.untraced := u.untraced_endTick
    _ = (t.withPolicy p).untraced := h
    _ = (t.endTick.withPolicy p).untraced := congrArg (State.withPolicy · p) t.untraced_endTick.symm

/-- The bound check does not read the policy. -/
theorem AgreeUnder.bounded {base len : Nat} (h : AgreeUnder p t u) :
    AgreeUnder p (s.bounded base len t) ((s.withPolicy p).bounded base len u) := by
  unfold State.bounded
  split
  · rfl
  · exact h

/-- A drawing shows the policy in the event trace alone. -/
theorem AgreeUnder.drawn {b : Blit} : AgreeUnder p (s.drawn b) ((s.withPolicy p).drawn b) := by
  rw [AgreeUnder, State.drawn_eq, State.drawn_eq s]
  rfl

/-- The key skips do not read the policy. -/
theorem AgreeUnder.skipOnKey {k : Byte} {want : Bool} :
    AgreeUnder p (s.skipOnKey k want) ((s.withPolicy p).skipOnKey k want) := by
  unfold State.skipOnKey
  split <;> rfl

/-- A handler that answers a next state answers one that agrees with it under any other policy: `DRW` is the one that
reads the policy. -/
theorem exec_withPolicy {i : Instr} (h : exec i s = .next t) :
    ∃ u, exec i (s.withPolicy p) = .next u ∧ AgreeUnder p t u := by
  cases i
  case ret =>
    rcases execRet_cases s with ⟨h0, e⟩ | ⟨h0, hl, e⟩ | ⟨_, e⟩ <;> cases e.symm.trans h
    · exact ⟨_, if_pos h0, rfl⟩
    · exact ⟨_, exec_ret_of_ne_zero (s := s.withPolicy p) h0 hl, rfl⟩
  case call nnn =>
    rcases execCall_cases s nnn with ⟨h0, e⟩ | ⟨hl, e⟩ | ⟨_, e⟩ <;> cases e.symm.trans h
    · exact ⟨_, if_pos h0, rfl⟩
    · exact ⟨_, exec_call_of_lt (s := s.withPolicy p) nnn hl, rfl⟩
  all_goals
    injection h with h
    subst h
  case drw => exact ⟨_, rfl, .bounded p (.drawn p)⟩
  case ldB | storeRegs | loadRegs => exact ⟨_, rfl, .bounded p rfl⟩
  case skp | sknp => exact ⟨_, rfl, .skipOnKey p⟩
  all_goals exact ⟨_, rfl, rfl⟩

/-- The same of a tick step: the fetch and the decoder do not read the policy. -/
theorem tick_withPolicy (h : tick s = .next t) : ∃ u, tick (s.withPolicy p) = .next u ∧ AgreeUnder p t u := by
  have hfetch : (s.withPolicy p).fetch = s.fetch := State.fetch_congr rfl rfl
  rcases tick_cases h with ⟨a, hf, rfl⟩ | ⟨w, r, hf, hd, rfl⟩ | ⟨w, i, v, hf, hd, he, rfl⟩
  · rw [State.endTick_raise]
    exact ⟨_, tick_of_fetch_error (hfetch.trans hf), rfl⟩
  · rw [State.endTick_raise]
    exact ⟨_, tick_of_decode_error (hfetch.trans hf) hd, rfl⟩
  · obtain ⟨u, hu, hagree⟩ := exec_withPolicy p he
    exact ⟨u.endTick, (tick_of_decode (hfetch.trans hf) hd).trans (congrArg endTickResult hu), hagree.endTick p⟩

/-- The same of a step: only the end of a tick and `DRW` read the policy. -/
theorem step_withPolicy (h : step s = .next t) : ∃ u, step (s.withPolicy p) = .next u ∧ AgreeUnder p t u := by
  rcases status_of_step h with hs | hs
  · rcases step_running hs with ⟨he, e⟩ | ⟨he, e⟩
    · cases e.symm.trans h
      exact ⟨_, closeChangesOnlyStatus (s.withPolicy p) (.inl hs) he, rfl⟩
    · obtain ⟨u, hu, hagree⟩ := tick_withPolicy p (e.symm.trans h)
      exact ⟨u, (step_of_ticks (s := s.withPolicy p) ⟨hs, he⟩).trans hu, hagree⟩
  · rcases step_waitKey hs with ⟨k, he, e⟩ | ⟨he, e⟩ | ⟨he, e⟩
    all_goals cases e.symm.trans h
    · exact ⟨_, step_of_key (s := s.withPolicy p) hs he, rfl⟩
    · exact ⟨_, closeChangesOnlyStatus (s.withPolicy p) (.inr hs) he, rfl⟩
    · exact ⟨_, step_of_wait (s := s.withPolicy p) hs he, rfl⟩

end Policy

/-- Settles O30: the step under the policy agrees with the step, whose parameters are those of `s` (O26). -/
theorem presentPolicyAffectsOnlyTheTrace : Obligations.PresentPolicyAffectsOnlyTheTrace := by
  intro s t p h
  obtain ⟨u, hu, hagree⟩ := step_withPolicy p h
  refine ⟨u, hu, ?_⟩
  rw [← parametersAreFixed s t h]
  exact congrArg (fun z : State => { z with params := t.params }) hagree

end Sys2Proof.Machine

/-! # The keypad

Both key skips take one sample and are the skip on it, for a value that is a key; the comparison of the pressed level
with `true` or with `false` is what makes them complementary (K3). The key event writes one register and advances, so
its frame is that of a register write. -/

namespace Sys2Proof.Machine

/-! ## The key skips -/

/-- A key 0 to 15 raises no fault: the sample is taken and the skip is on its level (R210, R211). -/
theorem State.skipOnKey_of_le {s : State} {k : Byte} (want : Bool) (h : k.toNat ≤ 15) :
    s.skipOnKey k want = s.takeKeys.skipIf (s.keyPressed k.toNat == want) := by
  rcases s.skipOnKey_cases k want with ⟨habove, _⟩ | ⟨_, e⟩
  · omega
  · exact e

/-- `SKP` on a key 0 to 15 takes the sample and skips if the key is pressed (R210). -/
theorem exec_skp_of_le {x : Reg} {s : State} (h : (s.getV x).toNat ≤ 15) :
    exec (.skp x) s = .next (s.takeKeys.skipIf (s.keyPressed (s.getV x).toNat == true)) :=
  congrArg Host.Outcome.next (State.skipOnKey_of_le true h)

/-- `SKNP` on a key 0 to 15 takes the sample and skips if the key is not pressed (R211). -/
theorem exec_sknp_of_le {x : Reg} {s : State} (h : (s.getV x).toNat ≤ 15) :
    exec (.sknp x) s = .next (s.takeKeys.skipIf (s.keyPressed (s.getV x).toNat == false)) :=
  congrArg Host.Outcome.next (State.skipOnKey_of_le false h)

/-- A skip on `c` being false moves `pc` the other way round than a skip on `c`. -/
theorem State.skipIf_beq_false_pc (s : State) (c : Bool) :
    (s.skipIf (c == false)).pc = s.pc + (if c = true then 2 else 4) := by
  cases c <;> rfl

/-- Where the environment supplies a sample, a key is pressed as its bit there says (R267). -/
theorem State.keyPressed_of_cons {s : State} {ks : BitVec 16} {kss : List (BitVec 16)} (h : s.env.keysIn = ks :: kss)
    (k : Nat) : s.keyPressed k = ks.getLsbD k := by
  rw [State.keyPressed, State.keyLevels, h, List.headD_cons]

/-- Settles O50: both skips are `State.skipIf` on the same sample, and each takes that one. -/
theorem keySkipsFollowTheKey : Obligations.KeySkipsFollowTheKey := by
  refine ⟨encodesAs_row 23 (by decide), encodesAs_row 24 (by decide), fun x s h => ?_⟩
  refine ⟨_, _, exec_skp_of_le h, exec_sknp_of_le h, ?_, ?_, fun ks kss hks => State.keyPressed_of_cons hks _,
    rfl, rfl, rfl, rfl, fun _ => rfl, fun _ => rfl⟩
  · exact s.takeKeys.skipIf_pc_of_iff beq_iff_eq
  · exact s.takeKeys.skipIf_beq_false_pc (s.keyPressed (s.getV x).toNat)

/-! ## The key wait -/

/-- The key event leaves the key in the register that waits for it (R213). -/
theorem State.getV_keyArrives_same (s : State) (k : BitVec 4) : (s.keyArrives k).getV s.waitX = k.setWidth 8 :=
  s.getV_setV_same s.waitX (k.setWidth 8)

/-- The key event leaves every other register alone (R213). -/
theorem State.getV_keyArrives_ne (s : State) (k : BitVec 4) {j : Reg} (h : j ≠ s.waitX) :
    (s.keyArrives k).getV j = s.getV j :=
  s.getV_setV_ne (k.setWidth 8) h

/-- Settles O13: the step is the key event on the state whose boundary is passed, which differs in the inputs alone. -/
theorem keyEventCompletesTheWait : Obligations.KeyEventCompletesTheWait := by
  intro s k hs he
  have hkey : (s.takeEvent.keyArrives k).getV s.waitX = k.setWidth 8 := s.takeEvent.getV_keyArrives_same k
  refine ⟨_, step_of_key hs he, ?_, rfl, rfl, fun j hj => s.takeEvent.getV_keyArrives_ne k hj, rfl, fun _ => rfl⟩
  rw [hkey]
  exact BitVec.toNat_setWidth_of_le (by decide)

/-- Settles O14: the handler is the suspension, and a step of the wait with nothing delivered passes the boundary. -/
theorem keyWaitSuspends : Obligations.KeyWaitSuspends :=
  ⟨encodesAs_row 28 (by decide), fun _ _ => rfl, fun _ hs he => step_of_wait hs he⟩

end Sys2Proof.Machine

/-! # Timer access

The three handlers move one byte. Inside a tick they run on the state whose timers have counted down, and the end of
the tick writes the event trace alone. -/

namespace Sys2Proof.Machine

/-- Settles O51: the read is a register write (`exec_setV`), the two writes are one field each and the advance. -/
theorem timerRegistersMove : Obligations.TimerRegistersMove :=
  ⟨encodesAs_row 25 (by decide), encodesAs_row 26 (by decide), encodesAs_row 27 (by decide), fun _ _ =>
    ⟨exec_setV rfl, ⟨_, rfl, rfl, rfl, rfl, fun _ => rfl⟩, ⟨_, rfl, rfl, rfl, rfl, fun _ => rfl⟩⟩⟩

@[simp] theorem State.getV_endTick (s : State) (k : Reg) : s.endTick.getV k = s.getV k := by
  rw [State.endTick_eq]; rfl

/-- Settles O11: the handler of O51 on the state whose timers have counted down, then the end of the tick. -/
theorem timerAccessSeesItsOwnTick : Obligations.TimerAccessSeesItsOwnTick := by
  intro s x ht
  refine ⟨fun hf => ?_, fun hf => ⟨_, step_of_exec ht hf rfl, ?_, ?_⟩⟩
  · obtain ⟨t, he, hx, -, hframe, -⟩ := (timerRegistersMove.2.2.2 x s.ticked).1
    have hdt : t.dt = s.ticked.dt := congrArg (·.dt) hframe
    refine ⟨_, step_of_exec ht hf he, ?_, ?_⟩
    · rw [State.getV_endTick, hx]
      exact toNat_countDownByte s.dt
    · rw [State.endTick_dt, State.getV_endTick, hx, hdt]
  · rw [State.endTick_dt]; rfl
  · rw [State.endTick_st]
    exact toNat_countDownByte s.st

end Sys2Proof.Machine

/-! # The address register and memory

`ADD I,Vx` and `LD F,Vx` write `i`. The three memory instructions are, inside memory, a block store or a block load
and the advance (`exec_bounded_inside`), so what they do to a byte and to a register is what the block operations do. -/

namespace Sys2Proof.Machine

/-- R231: five times a byte fits in 16 bits. -/
theorem toNat_glyphAddr (b : Byte) : (glyphAddr b).toNat = 5 * b.toNat := by
  have hb := b.isLt
  rw [glyphAddr, BitVec.toNat_mul, toNat_wordOperand]
  exact Nat.mod_eq_of_lt (show 5 * b.toNat < 65536 by omega)

/-- Settles O52: a write of the 16-bit sum to `i`. -/
theorem addIAddsRegister : Obligations.AddIAddsRegister := by
  refine ⟨encodesAs_row 29 (by decide), fun x s => ⟨_, rfl, ?_, rfl, rfl, fun _ => rfl⟩⟩
  exact (BitVec.toNat_add s.i _).trans (by rw [toNat_wordOperand])

/-- Settles O53: a write of the glyph's address to `i`. -/
theorem ldFPointsAtGlyph : Obligations.LdFPointsAtGlyph :=
  ⟨encodesAs_row 30 (by decide), fun x s => ⟨_, rfl, toNat_glyphAddr (s.getV x), rfl, rfl, fun _ => rfl⟩⟩

/-! ## The instructions inside memory -/

/-- A handler that is one bounded access is that access done, where its last byte, at `i + n`, is inside memory (R64,
R79). -/
theorem exec_bounded_inside {s t : State} {i : Instr} {n : Nat}
    (hi : exec i s = .next (s.bounded (s.dataAddr 0) (n + 1) t)) (h : s.dataAddr n ≤ 0xFFF) : exec i s = .next t :=
  hi.trans (congrArg Host.Outcome.next (s.bounded_inside t (.inr (Nat.succ_le_succ h))))

/-- After a block store at `i`, the byte at `i + k` is entry `k` of the block (R72). -/
theorem State.read_store (s : State) (bs : List Byte) {k : Nat} (h : k < bs.length) :
    Memory.read (s.store (s.dataAddr 0) bs).mem (s.dataAddr k) = bs[k] :=
  Memory.read_writeBytes_inside bs s.mem s.i.toNat k h

/-- A block store leaves every byte outside the block alone. -/
theorem State.sameBytesOutside_store (s : State) (a : Nat) (bs : List Byte) :
    sameBytesOutside a bs.length s (s.store a bs) :=
  fun _ h => Memory.read_writeBytes_outside bs s.mem h

/-- A register up to `x` after the block load from `i` holds its byte of memory (R234). -/
theorem State.getV_setBlock_readBytes (s : State) {x k : Reg} (h : k.toNat ≤ x.toNat) :
    (s.setBlock x (Memory.readBytes s.mem (s.dataAddr 0) (x.toNat + 1))).getV k =
      Memory.read s.mem (s.dataAddr k.toNat) := by
  have hk : k.toNat < (Memory.readBytes s.mem (s.dataAddr 0) (x.toNat + 1)).length := by
    rw [Memory.length_readBytes]; exact Nat.lt_succ_of_le h
  rw [State.getV_setBlock, if_pos h, List.getD_eq_getElem _ _ hk]
  exact Memory.getElem_readBytes s.mem s.i.toNat _ _ hk

/-- A register above `x` keeps its value in a block load (R234). -/
theorem State.getV_setBlock_of_lt (s : State) {x k : Reg} (bs : List Byte) (h : x.toNat < k.toNat) :
    (s.setBlock x bs).getV k = s.getV k := by
  rw [State.getV_setBlock, if_neg (Nat.not_le.2 h)]

/-- R232: the three digits of a byte, as numbers. -/
theorem toNat_decimalDigits (b : Byte) :
    (b / 100).toNat = b.toNat / 100 ∧ (b / 10 % 10).toNat = b.toNat / 10 % 10 ∧ (b % 10).toNat = b.toNat % 10 :=
  ⟨BitVec.toNat_udiv, BitVec.toNat_umod.trans (congrArg (· % 10) BitVec.toNat_udiv), BitVec.toNat_umod⟩

/-- Settles O54: the block stored is the three digits. -/
theorem ldBStoresDecimalDigits : Obligations.LdBStoresDecimalDigits := by
  refine ⟨encodesAs_row 31 (by decide), fun x s h => ?_⟩
  obtain ⟨hundreds, tens, ones⟩ := toNat_decimalDigits (s.getV x)
  have hread (k : Nat) (hk : k < 3) := congrArg BitVec.toNat (s.read_store (bcdDigits (s.getV x)) hk)
  exact ⟨_, exec_bounded_inside (n := 2) rfl h, (hread 0 (by decide)).trans hundreds,
    (hread 1 (by decide)).trans tens, (hread 2 (by decide)).trans ones, rfl, rfl,
    s.sameBytesOutside_store _ (bcdDigits (s.getV x))⟩

/-- Settles O55: the block stored is the registers up to `x`. -/
theorem storeRegsWritesBlock : Obligations.StoreRegsWritesBlock := by
  refine ⟨encodesAs_row 32 (by decide), fun x s h => ⟨_, exec_bounded_inside rfl h, fun k hk => ?_, rfl, rfl, ?_⟩⟩
  · have hlen : k.toNat < (s.getBlock x).length := by
      rw [State.length_getBlock]; exact Nat.lt_succ_of_le hk
    exact (s.read_store _ hlen).trans (s.getElem_getBlock x k hlen)
  · rw [← s.length_getBlock x]
    exact s.sameBytesOutside_store _ _

/-- Settles O56: the block loaded is the bytes from `i`. -/
theorem loadRegsReadsBlock : Obligations.LoadRegsReadsBlock :=
  ⟨encodesAs_row 33 (by decide), fun _ s h => ⟨_, exec_bounded_inside rfl h, fun _ hk => s.getV_setBlock_readBytes hk,
    fun _ hk => s.getV_setBlock_of_lt _ hk, rfl, rfl, fun _ => rfl⟩⟩

/-- Settles O57: the store (O55) keeps `i`, so the load (O56) reads the bytes it wrote. -/
theorem storeThenLoadRoundTrips : Obligations.StoreThenLoadRoundTrips := by
  intro x s rs h
  obtain ⟨t, hstore, hwrote, -, hframe, -⟩ := storeRegsWritesBlock.2 x s h
  have hi (k : Nat) : t.dataAddr k = s.dataAddr k := congrArg (·.i.toNat + k) hframe
  obtain ⟨u, hload, hreads, -⟩ := loadRegsReadsBlock.2 x { t with v := rs } ((hi x.toNat).trans_le h)
  refine ⟨t, u, hstore, hload, fun k hk => ?_⟩
  calc u.getV k
    _ = Memory.read t.mem (t.dataAddr k.toNat) := hreads k hk
    _ = Memory.read t.mem (s.dataAddr k.toNat) := by rw [hi]
    _ = s.getV k := hwrote k hk

end Sys2Proof.Machine

/-! # Fault entry

A handler that ends in `Faulted`, or with a record it did not find there, has made one of the checks of `HandlerFault`
and raised its fault (`Handled.fault_cases`). The statements on which handler faults on what, on the illegal word and on
precision follow from that. -/

namespace Sys2Proof.Machine

/-! ## The checks of the handlers -/

/-- `CALL` at `sp = 15` (R252). -/
theorem exec_call_full {s : State} (nnn : Addr) (h : s.sp = 15) : exec (.call nnn) s = .next (s.raise .stackOverflow) :=
  if_pos h

/-- `RET` at `sp = 0` (R253). -/
theorem exec_ret_empty {s : State} (h : s.sp = 0) : exec .ret s = .next (s.raise .stackUnderflow) :=
  if_pos h

/-- `RET` above the last slot has none to read (R26). -/
theorem exec_ret_noSlot {s : State} (h : 15 < s.sp.toNat) : exec .ret s = .fault .noStackSlot := by
  rcases execRet_cases s with ⟨hempty, _⟩ | ⟨_, hin, _⟩ | ⟨_, e⟩
  · rw [hempty] at h
    exact absurd h (by decide)
  · omega
  · exact e

/-- `CALL` above the last slot has none to write (R26). -/
theorem exec_call_noSlot {s : State} (nnn : Addr) (h : 15 < s.sp.toNat) :
    exec (.call nnn) s = .fault .noStackSlot := by
  rcases execCall_cases s nnn with ⟨hfull, _⟩ | ⟨hin, _⟩ | ⟨_, e⟩
  · rw [hfull] at h
    exact absurd h (by decide)
  · omega
  · exact e

/-- Settles O20. -/
theorem stackOverflowAndUnderflow : Obligations.StackOverflowAndUnderflow :=
  fun _ => ⟨exec_ret_empty, fun nnn => exec_call_full nnn, fun h =>
    ⟨exec_ret_noSlot h, fun nnn => exec_call_noSlot nnn h⟩⟩

/-- A value above 15 is no key, whichever way the skip goes (R254). -/
theorem State.skipOnKey_of_gt (s : State) {k : Byte} (want : Bool) (h : 15 < k.toNat) :
    s.skipOnKey k want = s.raise (.keyIndex k) :=
  if_pos h

/-- Settles O21: both key skips raise before they take a sample. -/
theorem keyIndexAboveFifteenFaults : Obligations.KeyIndexAboveFifteenFaults :=
  fun s _ h => ⟨congrArg Host.Outcome.next (s.skipOnKey_of_gt true h),
    congrArg Host.Outcome.next (s.skipOnKey_of_gt false h)⟩

/-! ## Only the checks of the handlers fault -/

/-- A handler raises the fault of its own check, or it leaves the record alone and enters no `Faulted`. -/
theorem Handled.fault_cases {s t : State} {i : Instr} (h : Handled s i t) :
    (∃ c, HandlerFault s i c ∧ t = s.raise c) ∨
    (t.fault = s.fault ∧ (t.status = .faulted → s.status = .faulted)) := by
  cases h
  case fault hf => exact .inl ⟨_, hf, rfl⟩
  all_goals exact .inr (by simp)

/-- A handler that enters `Faulted` raised the fault of its own check. -/
theorem Handled.fault_of_status {s t : State} {i : Instr} (h : Handled s i t) (hs : s.status ≠ .faulted)
    (ht : t.status = .faulted) : ∃ c, HandlerFault s i c ∧ t = s.raise c :=
  h.fault_cases.resolve_right fun hkeep => hs (hkeep.2 ht)

/-- The instructions that access memory, with the number of bytes. -/
theorem dataLength_cases {i : Instr} (h : dataLength i ≠ 0) :
    (∃ x y n, i = .drw x y n ∧ dataLength i = n.toNat ∧ 0 < dataLength i) ∨
    (∃ x, i = .ldB x ∧ dataLength i = 3) ∨
    (∃ x, (i = .storeRegs x ∨ i = .loadRegs x) ∧ dataLength i = x.toNat + 1) := by
  cases i
  case drw x y n => exact .inl ⟨x, y, n, rfl, rfl, Nat.pos_of_ne_zero h⟩
  case ldB x => exact .inr (.inl ⟨x, rfl, rfl⟩)
  case storeRegs x => exact .inr (.inr ⟨x, .inl rfl, rfl⟩)
  case loadRegs x => exact .inr (.inr ⟨x, .inr rfl, rfl⟩)
  all_goals exact absurd rfl h

/-- Settles O18, by the checks of `HandlerFault`. -/
theorem handlersFaultOnlyOnTheirOwnCheck : Obligations.HandlersFaultOnlyOnTheirOwnCheck := by
  intro i s t hs h ht
  obtain ⟨c, hf, rfl⟩ := (exec_handled h).fault_of_status hs ht
  cases hf with
  | underflow h0 => exact .inl ⟨rfl, h0, rfl⟩
  | overflow nnn h15 => exact .inr (.inl ⟨nnn, rfl, h15, rfl⟩)
  | noKey hi hk => exact .inr (.inr (.inl ⟨_, hi, hk, rfl⟩))
  | outside h0 hout =>
    refine .inr (.inr (.inr ⟨dataLength i, dataLength_cases h0, ?_, rfl⟩))
    have hlast : 0x1000 < s.i.toNat + dataLength i := hout
    omega

/-- Settles O9: the tick step of an illegal word by its equation; and no check of a handler is that of the decoder. -/
theorem illegalWordFaults : Obligations.IllegalWordFaults := by
  refine ⟨fun s w r ht hf hd => ?_, fun i s t w p h hrec => ?_⟩
  · have hf' : s.takeEvent.fetch = .ok w := (State.fetch_congr rfl rfl).trans hf
    exact (step_of_ticks ht).trans (tick_of_decode_error hf' hd)
  · rcases (exec_handled h).fault_cases with ⟨c, hf, rfl⟩ | ⟨hkeep, _⟩
    · cases hrec
      cases hf
    · exact hkeep.symm

/-! ## Precision -/

/-- A step from `Running` into `Faulted` is the fault entry on the state whose timers have counted down. -/
theorem step_faults {s t : State} (hs : s.status = .running) (h : step s = .next t) (ht : t.status = .faulted) :
    ∃ c, t = s.ticked.raise c := by
  cases step_transition h with
  | close => cases ht
  | faultingTick c _ => exact ⟨c, rfl⟩
  | @handlerTick i u _ _ _ he =>
    rw [State.endTick_status] at ht
    have hrun : s.ticked.status ≠ .faulted := by simp [hs]
    obtain ⟨c, -, e⟩ := (exec_handled he).fault_of_status hrun ht
    exact ⟨c, (State.endTick_of_faulted ht).trans e⟩
  | key _ hw _ | wait hw _ => cases hs.symm.trans hw

/-- Settles O17: the fault entry writes the status and the record. -/
theorem faultsArePrecise : Obligations.FaultsArePrecise := by
  intro s t hs h ht
  obtain ⟨c, rfl⟩ := step_faults hs h ht
  exact ⟨⟨c, rfl⟩, fun _ => rfl⟩

end Sys2Proof.Machine

/-! # The reset sequence with a ROM

What `boot` answers has a name (`booted`): the reset state with two block stores and the open parameters. Its registers
and its screen are those of `State.reset`; its memory is read by the two block stores, which do not overlap. -/

namespace Sys2Proof.Machine

/-- The state in which the reset sequence starts a ROM (R290). -/
def booted (p : BootParams) (rom : List Byte) : State :=
  { ((State.reset.store 0 p.font.toList).store romBase rom) with
    pc := p.resetPc, sp := p.resetSp, params := p.params }

/-- A ROM that fits is started (R292). -/
theorem boot_of_le (p : BootParams) {rom : List Byte} (h : rom.length ≤ 3584) : boot p rom = some (booted p rom) :=
  if_pos ((romWellFormed_iff rom).2 h)

/-- A ROM that does not fit is a load error (R293). -/
theorem boot_of_gt (p : BootParams) {rom : List Byte} (h : 3584 < rom.length) : boot p rom = none :=
  if_neg fun hw => Nat.not_le.2 h ((romWellFormed_iff rom).1 hw)

/-- Whatever `boot` answers is the start state of a ROM that fits. -/
theorem eq_booted_of_boot {p : BootParams} {rom : List Byte} {s : State} (h : boot p rom = some s) :
    rom.length ≤ 3584 ∧ s = booted p rom := by
  rcases Nat.lt_or_ge 3584 rom.length with hlong | hfits
  · cases (boot_of_gt p hlong).symm.trans h
  · exact ⟨hfits, Option.some.inj (h.symm.trans (boot_of_le p hfits))⟩

section Booted
variable (p : BootParams) (rom : List Byte)

/-- The ROM stands from 0x200 on. -/
theorem read_booted_rom {k : Nat} (h : k < rom.length) : Memory.read (booted p rom).mem (0x200 + k) = rom[k] :=
  Memory.read_writeBytes_inside rom _ romBase k h

/-- Outside the ROM, memory reads as the font's store left it. -/
theorem read_booted_outside {a : Nat} (h : a < 0x200 ∨ 0x200 + rom.length ≤ a) :
    Memory.read (booted p rom).mem a = Memory.read (Memory.writeBytes [] 0 p.font.toList) a :=
  Memory.read_writeBytes_outside rom _ h

/-- The font stands from 0x000 on, below the ROM. -/
theorem read_booted_font {k : Nat} (h : k < 80) : Memory.read (booted p rom).mem k = p.font[k] := by
  have hlen : k < p.font.toList.length := by rwa [Vector.length_toList]
  have hread := Memory.read_writeBytes_inside p.font.toList [] 0 k hlen
  rw [Nat.zero_add] at hread
  rw [read_booted_outside p rom (.inl (by omega)), hread, Vector.getElem_toList]

/-- Every byte above the font and outside the ROM is zero (D5). -/
theorem read_booted_rest {a : Nat} (hfont : 0x050 ≤ a) (hrom : a < 0x200 ∨ 0x200 + rom.length ≤ a) :
    Memory.read (booted p rom).mem a = 0 := by
  rw [read_booted_outside p rom hrom, Memory.read_writeBytes_outside]
  · exact resetByte_of_ge hfont
  · right
    rwa [Vector.length_toList, Nat.zero_add]

/-- Both stores stay inside memory, so memory is in the canonical form. -/
theorem wf_booted (h : rom.length ≤ 3584) : Memory.wf (booted p rom).mem := by
  refine Memory.wf_writeBytes rom (Memory.wf_writeBytes _ Memory.wf_nil (.inr ?_)) (.inr ?_)
  · rw [Vector.length_toList]; decide
  · exact Nat.add_le_add_left h 0x200

end Booted

/-- Settles O24: memory by its two stores, the fields that `boot` leaves by the reset state (O23). -/
theorem bootIsGood : Obligations.BootIsGood := by
  intro p rom s h hsp hpc
  obtain ⟨hfits, rfl⟩ := eq_booted_of_boot h
  obtain ⟨-, -, hrec, -, hslots, hwait⟩ := resetIsGood
  exact ⟨wf_booted p rom hfits, hsp, hrec, hpc, hslots, fun hs => nomatch hs⟩

/-- Settles O32: memory by its two stores, the fields that `boot` leaves by the reset state (O31). -/
theorem bootPlacesFontAndRom : Obligations.BootPlacesFontAndRom := by
  intro p rom
  obtain ⟨-, hi, -, hdt, hst, hv, hslots, hfb, hrun, hnofault, htrace, -⟩ := resetLeavesTableR40
  refine ⟨fun hfits => ⟨booted p rom, boot_of_le p hfits, rfl, rfl, rfl, hi, hdt, hst, hv, hslots, hfb, hrun, hnofault,
    htrace, fun _ => read_booted_rom p rom, fun _ => read_booted_font p rom, fun _ => read_booted_rest p rom⟩,
    boot_of_gt p⟩

end Sys2Proof.Machine
